-- ==== Sys2Proof/Word.lean ====
section
/-! DEFINITION. The plain bit-vector types of the block (00_scope.md R9: every value is unsigned). -/

namespace Sys2Proof

/-- A byte: a raw flux byte, a data byte, a track byte or a register number (30_encoding.md R81). -/
abbrev Byte := BitVec 8

/-- A 16-bit word: a command word (30_encoding.md R80) or an FM word (30_encoding.md R89). -/
abbrev Word := BitVec 16

end Sys2Proof
end

