-- ==== Sys2Proof/Syntax.lean ====
section
/-! DEFINITION. The commands of the block: one constructor per row of spec/opcode_table.json (30_encoding.md
R82), and the raw fields of a command word (R80). -/

namespace Sys2Proof

/-- The rate operand of DEM_RESET (40_demodulator.md R101): BITLEN 2 (125 kbit/s, F = 0) or BITLEN 4
(250 kbit/s, F = 1). 00_scope.md R7: there is no other. -/
inductive Rate
  | bitlen2
  | bitlen4
  deriving DecidableEq, Repr

/-- The locator strategy, the LA operand of SSL_LOCATE and the value of SSTRAT (10_state.md R35): fixed
(F = 0) or length-aware (F = 1). -/
inductive Strategy
  | fixed
  | lengthAware
  deriving DecidableEq, Repr

/-- The ten commands. Each operand takes every value of its field (30_encoding.md R81), so every `Instr` is
well-formed; a field the command does not take is 0 in its word (R83). -/
inductive Instr
  /-- DEM_RESET, 40_demodulator.md R101. -/
  | demReset (rate : Rate)
  /-- DEM_FEED with the raw sample byte, R102. -/
  | demFeed (raw : Byte)
  /-- DEM_FINISH, R108. -/
  | demFinish
  /-- MOD_BEGIN, 41_modulator.md R131. -/
  | modBegin
  /-- MOD_WORD with the sync flag S and the data byte, R133. -/
  | modWord (sync : Bool) (data : Byte)
  /-- MOD_END, R134. -/
  | modEnd
  /-- SSL_CLEAR, 42_sector_locator.md R152. -/
  | sslClear
  /-- SSL_LOAD with the track byte, R153. -/
  | sslLoad (data : Byte)
  /-- SSL_LOCATE with the strategy, R156. -/
  | sslLocate (la : Strategy)
  /-- REG_READ with the register number, 44_register_read.md R230. -/
  | regRead (reg : Byte)
  deriving DecidableEq, Repr

/-- The four fields of a command word (30_encoding.md R80): OP [15:12], RSV [11:9], F [8], D [7:0]. -/
structure Command where
  op : BitVec 4
  rsv : BitVec 3
  f : Bool
  d : Byte
  deriving DecidableEq, Repr

end Sys2Proof
end

