-- ==== Sys2Proof/WellFormed.lean ====
section
/-! DEFINITION. Which command words are legal: the four cases of 30_encoding.md R83, each its own check on the
fields of R80. (An `Instr` needs no check: R81 admits every value of each of its operands.) -/

namespace Sys2Proof

/-- OP is one of 0x1 … 0xA (30_encoding.md R83, first case: 0x0 and 0xB … 0xF are illegal). -/
def Command.opDefined (c : Command) : Bool := decide (1 ≤ c.op.toNat) && decide (c.op.toNat ≤ 10)

/-- The operations with an F operand: DEM_RESET, MOD_WORD, SSL_LOCATE (30_encoding.md R82, column F). -/
def Command.takesF (c : Command) : Bool := c.op == 0x1#4 || c.op == 0x5#4 || c.op == 0x9#4

/-- The operations with a D operand: DEM_FEED, MOD_WORD, SSL_LOAD, REG_READ (30_encoding.md R82, column D). -/
def Command.takesD (c : Command) : Bool :=
  c.op == 0x2#4 || c.op == 0x5#4 || c.op == 0x8#4 || c.op == 0xA#4

/-- RSV is 000 (30_encoding.md R83, second case). -/
def Command.rsvZero (c : Command) : Bool := c.rsv == 0#3

/-- F is 0 for an operation whose F column is 0 (30_encoding.md R83, third case). -/
def Command.fAllowed (c : Command) : Bool := c.takesF || !c.f

/-- D is 0 for an operation whose D column is 0 (30_encoding.md R83, fourth case). -/
def Command.dAllowed (c : Command) : Bool := c.takesD || c.d == 0#8

/-- A legal command: none of the four cases of 30_encoding.md R83 applies. -/
def Command.wellFormed (c : Command) : Bool :=
  c.opDefined && c.rsvZero && c.fAllowed && c.dAllowed

end Sys2Proof
end

