-- ==== Sys2Proof/Decode.lean ====
section
/-! DEFINITION. Decoding a command word by the table of 30_encoding.md R82 (R84), and encoding a command from
the same table and the word format of R80. -/

namespace Sys2Proof

/-- The fields of a command word (30_encoding.md R80). -/
def Command.ofWord (w : Word) : Command where
  op := w.extractLsb' 12 4
  rsv := w.extractLsb' 9 3
  f := w.getLsbD 8
  d := w.extractLsb' 0 8

/-- The command word of four fields (30_encoding.md R80). -/
def Command.toWord (c : Command) : Word := c.op ++ c.rsv ++ BitVec.ofBool c.f ++ c.d

/-- The rate an F bit selects (40_demodulator.md R101). -/
def rateOfFlag (f : Bool) : Rate := if f then .bitlen4 else .bitlen2

/-- The F bit of a rate (40_demodulator.md R101). -/
def flagOfRate : Rate → Bool
  | .bitlen2 => false
  | .bitlen4 => true

/-- The strategy an F bit selects (42_sector_locator.md R156). -/
def strategyOfFlag (f : Bool) : Strategy := if f then .lengthAware else .fixed

/-- The F bit of a strategy (42_sector_locator.md R156). -/
def flagOfStrategy : Strategy → Bool
  | .fixed => false
  | .lengthAware => true

/-- One row of the opcode map (30_encoding.md R82) with a match value: the pattern, the mask, and the
operation it selects from the F and D fields (R84). -/
structure OpcodeRow where
  pattern : Word
  mask : Word
  op : Bool → Byte → Instr

/-- "A word w selects a row when (w & mask) = match" (30_encoding.md R82). -/
def OpcodeRow.selects (r : OpcodeRow) (w : Word) : Bool := w &&& r.mask == r.pattern

/-- The ten rows of 30_encoding.md R82 that have a match value, in the table's order. -/
def opcodeRows : List OpcodeRow :=
  [ { pattern := 0x1000#16, mask := 0xFEFF#16, op := fun f _ => .demReset (rateOfFlag f) },
    { pattern := 0x2000#16, mask := 0xFF00#16, op := fun _ d => .demFeed d },
    { pattern := 0x3000#16, mask := 0xFFFF#16, op := fun _ _ => .demFinish },
    { pattern := 0x4000#16, mask := 0xFFFF#16, op := fun _ _ => .modBegin },
    { pattern := 0x5000#16, mask := 0xFE00#16, op := fun f d => .modWord f d },
    { pattern := 0x6000#16, mask := 0xFFFF#16, op := fun _ _ => .modEnd },
    { pattern := 0x7000#16, mask := 0xFFFF#16, op := fun _ _ => .sslClear },
    { pattern := 0x8000#16, mask := 0xFF00#16, op := fun _ d => .sslLoad d },
    { pattern := 0x9000#16, mask := 0xFEFF#16, op := fun f _ => .sslLocate (strategyOfFlag f) },
    { pattern := 0xA000#16, mask := 0xFF00#16, op := fun _ d => .regRead d } ]

/-- Which case of 30_encoding.md R83 a word falls under; the block answers all four with E_ILLEGAL. -/
inductive IllegalWord
  /-- OP is 0x0 or 0xB … 0xF. -/
  | reservedOpcode
  /-- RSV is not 000. -/
  | reservedBits
  /-- F is 1 for an operation whose F column is 0. -/
  | flagNotZero
  /-- D is not 0 for an operation whose D column is 0. -/
  | operandNotZero
  deriving DecidableEq, Repr

/-- The first case of 30_encoding.md R83, in its order, that a word matching no row falls under. -/
def illegalCase (w : Word) : IllegalWord :=
  let c := Command.ofWord w
  if !c.opDefined then .reservedOpcode
  else if !c.rsvZero then .reservedBits
  else if !c.fAllowed then .flagNotZero
  else .operandNotZero

/-- The decoding procedure of 30_encoding.md R84, total on all 16-bit words: the selected row's operation on
F = w[8] and D = w[7:0], or the reason the word is illegal. -/
def decode (w : Word) : Except IllegalWord Instr :=
  match opcodeRows.find? (fun r => r.selects w) with
  | some r => .ok (r.op (w.getLsbD 8) (w.extractLsb' 0 8))
  | none => .error (illegalCase w)

/-- The fields of a command's word, by the columns OP, F and D of 30_encoding.md R82; RSV is 000 and a field
the command does not take is 0 (R81, R83). -/
def Instr.command : Instr → Command
  | .demReset rate => { op := 0x1#4, rsv := 0#3, f := flagOfRate rate, d := 0#8 }
  | .demFeed raw => { op := 0x2#4, rsv := 0#3, f := false, d := raw }
  | .demFinish => { op := 0x3#4, rsv := 0#3, f := false, d := 0#8 }
  | .modBegin => { op := 0x4#4, rsv := 0#3, f := false, d := 0#8 }
  | .modWord sync data => { op := 0x5#4, rsv := 0#3, f := sync, d := data }
  | .modEnd => { op := 0x6#4, rsv := 0#3, f := false, d := 0#8 }
  | .sslClear => { op := 0x7#4, rsv := 0#3, f := false, d := 0#8 }
  | .sslLoad data => { op := 0x8#4, rsv := 0#3, f := false, d := data }
  | .sslLocate la => { op := 0x9#4, rsv := 0#3, f := flagOfStrategy la, d := 0#8 }
  | .regRead reg => { op := 0xA#4, rsv := 0#3, f := false, d := reg }

/-- The word of a command (30_encoding.md R80, R82). -/
def encode (i : Instr) : Word := i.command.toWord

/-- The instruction read from an instruction given as a number whose bit 0 is the word's least significant bit
(spec/opcode_table.json); `none` for an illegal word. -/
def decodeTableWord (nbits w : Nat) : Option Instr :=
  match decode (BitVec.ofNat 16 (w % 2 ^ nbits)) with
  | .ok i => some i
  | .error _ => none

end Sys2Proof
end

