-- ==== Sys2Proof/Config.lean ====
section
/-! DEFINITION. The one configuration record of 00_scope.md R6, with the source's values (92_eei_decisions.md
D39; 93_implementation_defined.md I1: unaudited and normative). UNVERIFIED, log entry 11. -/

namespace Sys2Proof

/-- The named constants of 00_scope.md R6, under the table's names, and the header values that
93_implementation_defined.md I1 lists with them. -/
structure Config where
  nTracks : Nat
  nSides : Nat
  sideLen : Nat
  /-- The bitrate field's value for 125 kbit/s (R7); the host writes this one (43_host_interface.md R205). -/
  bitrate125 : Nat
  /-- The bitrate field's value for 250 kbit/s (R7). -/
  bitrate250 : Nat
  /-- BITLEN at 125 kbit/s (R7). -/
  bitlen125 : Nat
  /-- BITLEN at 250 kbit/s (R7). -/
  bitlen250 : Nat
  syncData : Byte
  syncClock : Byte
  clkMask : Word
  minBlock : Nat
  fill : Byte
  chunk : Nat
  maxSectors : Nat
  runPat : List Byte
  runByte : Byte
  markA : List Byte
  markB : List Byte
  wRun1 : Nat
  wMarkA : Nat
  wRun2 : Nat
  wMarkB : Nat
  skipA : Nat
  skipB : Nat
  fixedAdv : Nat
  lenExtra : Nat
  /-- TRACK_MIN_LEN is this value times BITLEN. -/
  trackMinLenPerBit : Nat
  hfeTrackLenW : Nat
  hfeBlock : Nat
  hfeHalf : Nat
  /-- The header's signature, ASCII `HXCPICFE` (43_host_interface.md R200). -/
  hfeSignature : List Byte
  /-- The format revision, read and written (43_host_interface.md R200, R205). -/
  hfeRevision : Byte
  /-- The RPM the host writes (43_host_interface.md R205). -/
  hfeRpmW : Nat
  deriving DecidableEq, Repr

/-- The values of 00_scope.md R6 and 93_implementation_defined.md I1: the one place where any of them is written. -/
abbrev config : Config where
  nTracks := 80
  nSides := 2
  sideLen := 3125
  bitrate125 := 125
  bitrate250 := 250
  bitlen125 := 2
  bitlen250 := 4
  syncData := 0x06#8
  syncClock := 0xFD#8
  clkMask := 0xEFFF#16
  minBlock := 256
  fill := 0x55#8
  chunk := 128
  maxSectors := 5
  runPat := [0x06#8, 0x06#8, 0x06#8]
  runByte := 0x06#8
  markA := [0xEA#8, 0xD3#8]
  markB := [0xDD#8, 0xF3#8]
  wRun1 := 100
  wMarkA := 10
  wRun2 := 20
  wMarkB := 20
  skipA := 7
  skipB := 2
  fixedAdv := 530
  lenExtra := 30
  trackMinLenPerBit := 6250
  hfeTrackLenW := 12504
  hfeBlock := 512
  hfeHalf := 256
  hfeSignature := [0x48#8, 0x58#8, 0x43#8, 0x50#8, 0x49#8, 0x43#8, 0x46#8, 0x45#8]
  hfeRevision := 0x00#8
  hfeRpmW := 300

/-- STEP for a BITLEN: `BITLEN/2` (00_scope.md R6). -/
def Config.step (bitLen : Nat) : Nat := bitLen / 2

/-- TRACK_MIN_LEN for a BITLEN: `6250 × BITLEN` (00_scope.md R6). -/
def Config.trackMinLen (c : Config) (bitLen : Nat) : Nat := c.trackMinLenPerBit * bitLen

/-- A sync mask: SIDE_LEN bits, bit `i` for index `i` of the track-side (10_state.md R32). -/
abbrev Mask := BitVec config.sideLen

theorem config_sideLen : config.sideLen = 3125 := rfl
theorem config_minBlock : config.minBlock = 256 := rfl
theorem config_maxSectors : config.maxSectors = 5 := rfl

end Sys2Proof
end

