-- ==== Sys2Proof/Machine/State.lean ====
section
/-! DEFINITION. The block's state: the record of 10_state.md R20 and nothing else (`Block`), as one structure per
unit, and beside it the command and response channels of 00_scope.md R3 (the model's own two fields, log entry
1) in `State`. Plain data. -/

namespace Sys2Proof.Machine

open Sys2Proof

/-- STEP, raw sample bits per FM cell: 1 or 2 and nothing else (10_state.md R21). -/
inductive SampleStep
  | one
  | two
  deriving DecidableEq, Repr

/-- PHASE (10_state.md R22): the accumulator the next cell goes to, SACC in SYNC and DACC in DATA. -/
inductive Phase
  | sync
  | data
  deriving DecidableEq, Repr

/-- SSTOP, why the last scan stopped (10_state.md R36), in the order of the codes 0 … 7. -/
inductive StopReason
  /-- NONE: no scan since power-on or SSL_CLEAR. -/
  | none
  /-- DONE: MAX_SECTORS sectors were found. -/
  | done
  /-- BOUND: the cursor is at or past 3125 at the head of a sector. -/
  | bound
  /-- NO_RUN1: step 1 found no RUN_PAT. -/
  | noRun1
  /-- NO_MARK_A: step 2 found no MARK_A. -/
  | noMarkA
  /-- NO_RUN2: step 3 found no RUN_PAT. -/
  | noRun2
  /-- NO_MARK_B: step 4 found no MARK_B. -/
  | noMarkB
  /-- LEN_OOB: step 5 found fewer than 2 bytes at the cursor. -/
  | lenOob
  deriving DecidableEq, Repr

/-- The block error codes (60_exceptions.md R242). -/
inductive ErrCode
  /-- E_ILLEGAL, code 1. -/
  | illegal
  /-- E_DEM_NOINIT, code 2. -/
  | demNoInit
  /-- E_MOD_SEQ, code 3. -/
  | modSeq
  /-- E_SSL_FULL, code 4. -/
  | sslFull
  /-- E_SSL_NOTLOADED, code 5. -/
  | sslNotLoaded
  deriving DecidableEq, Repr

/-- The response kinds (30_encoding.md R85). -/
inductive Response
  /-- NONE, the empty acknowledgement. -/
  | ack
  /-- BYTES(s), a byte sequence in order. -/
  | bytes (s : List Byte)
  /-- LOCATE(count, mask): count in 0 … 5, and the mask, bit `i` for index `i`. -/
  | locate (count : Fin (config.maxSectors + 1)) (mask : Mask)
  /-- WORD(v), a 32-bit value. -/
  | word (v : BitVec 32)
  /-- ERROR(code). -/
  | error (code : ErrCode)
  deriving DecidableEq, Repr

/-- The contents of TBUF (10_state.md R30): the (index, byte) pairs that differ from what an unlisted index
reads as, indices strictly rising. -/
abbrev Memory := List Host.Cell

/-- Demodulator state (10_state.md R21 … R27). -/
structure Dem where
  /-- STEP, R21. -/
  step : SampleStep
  /-- PHASE, R22. -/
  phase : Phase
  /-- DACC, R23: the last eight data cells, the newest at bit 0. -/
  dacc : Byte
  /-- SACC, R24: the last eight clock cells, the newest at bit 0. -/
  sacc : Byte
  /-- BCNT, R25: 0 … 7 between cell steps. The value 8 "exists only inside a cell step" (log entry 5). -/
  bcnt : Fin 8
  /-- OBUF, R26: the bytes emitted, oldest first. -/
  obuf : List Byte
  /-- DINIT, R27. -/
  dinit : Bool
  deriving DecidableEq, Repr

/-- Modulator state (10_state.md R28, R29). -/
structure Mod where
  /-- MOPEN, R28: a block is open. -/
  mopen : Bool
  /-- MOCNT, R29: bytes emitted in the block, saturating at 256. -/
  mocnt : Fin (config.minBlock + 1)
  deriving DecidableEq, Repr

/-- Sector locator state (10_state.md R30 … R37). -/
structure Ssl where
  /-- TBUF, R30. -/
  tbuf : Memory
  /-- LPTR, R31: 0 … 3125. -/
  lptr : Fin (config.sideLen + 1)
  /-- MASK, R32. -/
  mask : Mask
  /-- SCOUNT, R33: 0 … 5. -/
  scount : Fin (config.maxSectors + 1)
  /-- SCUR, R34, held in 32 bits. -/
  scur : BitVec 32
  /-- SSTRAT, R35. -/
  sstrat : Strategy
  /-- SSTOP, R36. -/
  sstop : StopReason
  /-- RVALID, R37. -/
  rvalid : Bool
  deriving DecidableEq, Repr

/-- Error state (10_state.md R38, R39). -/
structure Errs where
  /-- ERR, R38, sticky. -/
  err : Bool
  /-- ECODE, R39: the first error's code, 0 while ERR is 0. -/
  ecode : BitVec 4
  deriving DecidableEq, Repr

/-- The block's state: exactly the nineteen fields of 10_state.md R20, by unit, and nothing else. -/
structure Block where
  dem : Dem
  mod : Mod
  ssl : Ssl
  errs : Errs
  deriving DecidableEq, Repr

/-- What a step works on: the block's state, and the two channels between the block and its host (00_scope.md
R3), which are no part of the block's state and which no command reads. -/
structure State extends Block where
  /-- The command words issued and not yet taken, oldest first (the model's own field, log entry 1). -/
  cmds : List Word
  /-- The response channel, oldest response first (the model's own field, log entry 1). -/
  resps : List Response
  deriving DecidableEq, Repr

/-- Why the machine stops with a fault. There is no such reason: every command in every state either completes
or raises a block error, which is a next state (60_exceptions.md R240, R241, R246). Nobody raises one; safe. -/
inductive Fault
  deriving DecidableEq, Repr

/-- Why an instruction has no meaning in the model. -/
inductive Refusal
  /-- Raised by an arm of `exec` whose command is not modelled yet; none is left. Safe: the run stops. -/
  | notModelled (mnemonic : String)
  deriving DecidableEq, Repr

/-- DEM after power-on reset (10_state.md R46). -/
def Dem.powerOn : Dem where
  step := .one
  phase := .sync
  dacc := 0x00#8
  sacc := 0x00#8
  bcnt := 0
  obuf := []
  dinit := false

/-- MOD after power-on reset (10_state.md R46). -/
def Mod.powerOn : Mod where
  mopen := false
  mocnt := 0

/-- SSL after power-on reset (10_state.md R46). TBUF is "unspecified" there; the model lists nothing, so every
byte reads 0x00, as 70_reset_and_hazards.md R273 allows. DESIGN CHOICE, unsafe, log entry 3. -/
def Ssl.powerOn : Ssl where
  tbuf := []
  lptr := 0
  mask := 0#config.sideLen
  scount := 0
  scur := 0#32
  sstrat := .fixed
  sstop := .none
  rvalid := false

/-- The error state after power-on reset (10_state.md R46). -/
def Errs.powerOn : Errs where
  err := false
  ecode := 0#4

/-- The block after power-on reset (70_reset_and_hazards.md R270). -/
def Block.powerOn : Block where
  dem := .powerOn
  mod := .powerOn
  ssl := .powerOn
  errs := .powerOn

/-- The machine after power-on reset (70_reset_and_hazards.md R270), with no command issued and no response
given (log entry 1). -/
def State.reset : State where
  toBlock := .powerOn
  cmds := []
  resps := []

end Sys2Proof.Machine
end

