-- ==== Sys2Proof/Machine/Ops.lean ====
section
/-! DEFINITION. The named operations on TBUF, MASK and the state: memory reads and writes (00_scope.md R11),
the response channel, and raising a block error (60_exceptions.md R241), the block's only exception entry. -/

namespace Sys2Proof.Machine

open Sys2Proof

/-- What an unlisted TBUF index reads as: 0x00 (log entry 3; 93_implementation_defined.md I3, "any value"). -/
def Memory.unlisted : Byte := 0x00#8

/-- Read the byte of TBUF at index `a`. -/
def Memory.read : Memory → Nat → Byte
  | [], _ => Memory.unlisted
  | (b, v) :: rest, a => if a = b then v else Memory.read rest a

/-- Put a cell in front, unless it holds what an unlisted index reads as. -/
def Memory.put (a : Nat) (v : Byte) (rest : Memory) : Memory :=
  if v = Memory.unlisted then rest else (a, v) :: rest

/-- Write one byte of TBUF at index `a`, keeping the canonical form. -/
def Memory.write : Memory → Nat → Byte → Memory
  | [], a, v => Memory.put a v []
  | (b, w) :: rest, a, v =>
    if a < b then Memory.put a v ((b, w) :: rest)
    else if a = b then Memory.put a v rest
    else (b, w) :: Memory.write rest a v

/-- The canonical form of TBUF: indices strictly rising and in 0 … 3124 (20_memory.md R72), and no cell equal
to what an unlisted index reads as. -/
abbrev Memory.wf (m : Memory) : Prop :=
  m.Pairwise (fun c c' => c.1 < c'.1) ∧ ∀ c ∈ m, c.1 < config.sideLen ∧ c.2 ≠ Memory.unlisted

/-- Set the mask bit of index `i` (42_sector_locator.md R154). -/
def markAt (m : Mask) (i : Nat) : Mask := m ||| BitVec.twoPow config.sideLen i

/-- Put DEM's state into the machine. -/
def State.setDem (s : State) (d : Dem) : State := { s with dem := d }

/-- Put MOD's state into the machine. -/
def State.setMod (s : State) (m : Mod) : State := { s with mod := m }

/-- Put SSL's state into the machine. -/
def State.setSsl (s : State) (l : Ssl) : State := { s with ssl := l }

/-- `respond(v)`: place a response on the response channel (00_scope.md R11, 30_encoding.md R85). -/
def State.respond (s : State) (r : Response) : State := { s with resps := s.resps ++ [r] }

/-- The number of a block error code (60_exceptions.md R242). -/
def ErrCode.code : ErrCode → BitVec 4
  | .illegal => 1#4
  | .demNoInit => 2#4
  | .modSeq => 3#4
  | .sslFull => 4#4
  | .sslNotLoaded => 5#4

/-- The error state after an error: the first error sets ERR and its code, a later one changes nothing
(60_exceptions.md R241, 10_state.md R38, R39). -/
def Errs.record (e : Errs) (c : ErrCode) : Errs :=
  if e.err then e else { err := true, ecode := c.code }

/-- `raise Error(code)` (60_exceptions.md R241): record the first error, respond ERROR(code), change nothing
else. This is the block's whole exception entry: there is no trap, no saved register, no vector and no return
(R246, R247). -/
def State.raise (s : State) (c : ErrCode) : State :=
  { s with errs := s.errs.record c, resps := s.resps ++ [.error c] }

end Sys2Proof.Machine
end

