-- ==== Sys2Proof/Machine/Operands.lean ====
section
/-! DEFINITION. How operands are read: the sample bits of a raw byte (20_memory.md R62), the bytes of an FM word
(R63), the little-endian length field (R65), and the 32-bit widening of a register (00_scope.md R9). -/

namespace Sys2Proof.Machine

open Sys2Proof

/-- STEP as a number: `BITLEN/2`, 1 at 125 kbit/s and 2 at 250 (00_scope.md R6, 10_state.md R21). -/
def SampleStep.toNat : SampleStep → Nat
  | .one => Config.step config.bitlen125
  | .two => Config.step config.bitlen250

/-- The STEP a rate selects (40_demodulator.md R101: F = 1 gives 2, F = 0 gives 1). -/
def stepOfRate : Rate → SampleStep
  | .bitlen2 => .one
  | .bitlen4 => .two

/-- BITLEN, raw bytes per decoded byte (00_scope.md R7). -/
def bitLenOfRate : Rate → Nat
  | .bitlen2 => config.bitlen125
  | .bitlen4 => config.bitlen250

/-- The samples of a raw byte in time order: the bits `(STEP−1) + k × STEP` for `k` from 0 up, least
significant first (20_memory.md R62, 40_demodulator.md R102, 90_conflicts.md C1). -/
def samples (st : SampleStep) (raw : Byte) : List Bool :=
  (List.range (8 / st.toNat)).map (fun k => raw.getLsbD ((st.toNat - 1) + k * st.toNat))

/-- The low byte of an FM word, `w[7:0]` (20_memory.md R63). -/
def lowByte (w : Word) : Byte := w.extractLsb' 0 8

/-- The high byte of an FM word, `w[15:8]` (20_memory.md R63). -/
def highByte (w : Word) : Byte := w.extractLsb' 8 8

/-- The two bytes MOD sends for a word, low byte first (20_memory.md R63). -/
def wordBytes (w : Word) : List Byte := [lowByte w, highByte w]

/-- The 16-bit little-endian value of a low and a high byte (20_memory.md R65, R66). -/
def le16 (lo hi : Byte) : Nat := lo.toNat + 256 * hi.toNat

/-- The length field at TBUF index `c`: `TBUF[c] | (TBUF[c+1] << 8)`, 0 … 65535 (20_memory.md R65). -/
def lengthField (t : Memory) (c : Nat) : Nat := le16 (t.read c) (t.read (c + 1))

/-- `zext_32` of a field of at most 32 bits (00_scope.md R9). -/
def zext32 {w : Nat} (v : BitVec w) : BitVec 32 := v.setWidth 32

/-- A natural number as a 32-bit register value (10_state.md R40). -/
def word32 (n : Nat) : BitVec 32 := BitVec.ofNat 32 n

/-- A flag as a 32-bit value, 0 or 1. -/
def bit32 (b : Bool) : BitVec 32 := if b then 1#32 else 0#32

end Sys2Proof.Machine
end

