-- ==== Sys2Proof/Machine/Flags.lean ====
section
/-! DEFINITION. The status flags as the registers show them (10_state.md R40, R42; 44_register_read.md R230), and
the toggling of PHASE (40_demodulator.md R109). The block has no condition codes (10_state.md R42). -/

namespace Sys2Proof.Machine

open Sys2Proof

/-- PHASE as a bit: 0 SYNC, 1 DATA (10_state.md R22). -/
def Phase.bit : Phase → Bool
  | .sync => false
  | .data => true

/-- "Toggle the phase flag after processing each bit" (40_demodulator.md R109). -/
def Phase.toggle : Phase → Phase
  | .sync => .data
  | .data => .sync

/-- STEP2 of DSTAT: 0 when STEP = 1, 1 when STEP = 2 (10_state.md R40). -/
def SampleStep.bit : SampleStep → Bool
  | .one => false
  | .two => true

/-- SSTRAT as a bit: 0 fixed, 1 length-aware (10_state.md R35). -/
def strategyBit : Strategy → Bool
  | .fixed => false
  | .lengthAware => true

/-- SSTOP's code, 0 … 7 (10_state.md R36). -/
def StopReason.code : StopReason → Nat
  | .none => 0
  | .done => 1
  | .bound => 2
  | .noRun1 => 3
  | .noMarkA => 4
  | .noRun2 => 5
  | .noMarkB => 6
  | .lenOob => 7

/-- DSTAT: `BCNT << 4 | STEP2 << 2 | PHASE << 1 | DINIT` (44_register_read.md R230). -/
def Dem.dstat (d : Dem) : BitVec 32 :=
  word32 d.bcnt.val <<< 4 ||| bit32 d.step.bit <<< 2 ||| bit32 d.phase.bit <<< 1 ||| bit32 d.dinit

/-- DOLEN, the length of OBUF (10_state.md R26, R40). -/
def Dem.dolen (d : Dem) : BitVec 32 := word32 d.obuf.length

/-- MSTAT, the flag MOPEN (10_state.md R40). -/
def Mod.mstat (m : Mod) : BitVec 32 := bit32 m.mopen

/-- SRES: `SSTOP << 5 | SSTRAT << 4 | SCOUNT << 1 | RVALID` (44_register_read.md R230). -/
def Ssl.sres (l : Ssl) : BitVec 32 :=
  word32 l.sstop.code <<< 5 ||| bit32 (strategyBit l.sstrat) <<< 4 ||| word32 l.scount.val <<< 1 |||
    bit32 l.rvalid

/-- ESTAT: `ECODE << 4 | ERR` (44_register_read.md R230). -/
def Errs.estat (e : Errs) : BitVec 32 := zext32 e.ecode <<< 4 ||| bit32 e.err

end Sys2Proof.Machine
end

