-- ==== Sys2Proof/Machine/Demodulator.lean ====
section
/-! DEFINITION. The FM demodulator DEM (40_demodulator.md): CellStep in its five stages (R103), and the meanings
of DEM_RESET, DEM_FEED and DEM_FINISH. -/

namespace Sys2Proof.Machine

open Sys2Proof

/-- What one cell step works on: PHASE, DACC, SACC and BCNT, where BCNT may reach 8 (10_state.md R25: "the value
8 exists only inside a cell step"). -/
structure CellRegs where
  phase : Phase
  dacc : Byte
  sacc : Byte
  count : Nat
  deriving DecidableEq, Repr

/-- The registers of DEM that a cell step works on. -/
def Dem.cellRegs (d : Dem) : CellRegs :=
  { phase := d.phase, dacc := d.dacc, sacc := d.sacc, count := d.bcnt.val }

/-- `trunc_8((acc << 1) | b)`: the new cell enters at bit 0 and the old bit 7 is lost (40_demodulator.md R104). -/
def shiftIn (acc : Byte) (b : Bool) : Byte := (acc <<< 1) ||| (if b then 1#8 else 0#8)

/-- Stage 1, append (40_demodulator.md R104): only a cell appended to DACC counts towards a byte. -/
def CellRegs.append (c : CellRegs) (b : Bool) : CellRegs :=
  match c.phase with
  | .data => { c with dacc := shiftIn c.dacc b, count := c.count + 1 }
  | .sync => { c with sacc := shiftIn c.sacc b }

/-- Stage 2, resynchronisation case (a), byte realignment in the data phase (40_demodulator.md R105). -/
def CellRegs.resyncData (c : CellRegs) : CellRegs :=
  if c.phase = .data ∧ c.dacc = config.syncData ∧ c.sacc = config.syncClock then { c with count := 8 } else c

/-- Stage 3, resynchronisation case (b), phase realignment in the sync phase (40_demodulator.md R106): the
accumulators exchange their values and PHASE becomes DATA. -/
def CellRegs.resyncSync (c : CellRegs) : CellRegs :=
  if c.phase = .sync ∧ c.sacc = config.syncData ∧ c.dacc = config.syncClock then
    { phase := .data, dacc := c.sacc, sacc := c.dacc, count := 8 }
  else c

/-- Stages 1 to 3 of CellStep (40_demodulator.md R103). -/
def Dem.cell (d : Dem) (b : Bool) : CellRegs := ((d.cellRegs.append b).resyncData).resyncSync

/-- Append an emitted byte to OBUF unless it is full, when the byte is dropped (40_demodulator.md R107). -/
def emitByte (obuf : List Byte) (v : Byte) : List Byte :=
  if obuf.length < config.sideLen then obuf ++ [v] else obuf

/-- BCNT after the emit stage: cleared at 8, else kept (40_demodulator.md R107). -/
def keepCount (n : Nat) : Fin 8 := if h : n < 8 then ⟨n, h⟩ else 0

/-- Stages 4 and 5: emit when the count is 8 (40_demodulator.md R107), then toggle PHASE (R109). -/
def Dem.finishCell (d : Dem) (c : CellRegs) : Dem :=
  { d with
    phase := c.phase.toggle
    dacc := c.dacc
    sacc := c.sacc
    bcnt := keepCount c.count
    obuf := if c.count = 8 then emitByte d.obuf c.dacc else d.obuf }

/-- CellStep(b), "the whole of DEM's behaviour per cell" (40_demodulator.md R103). -/
def Dem.cellStep (d : Dem) (b : Bool) : Dem := d.finishCell (d.cell b)

/-- The cells of one raw byte in turn (40_demodulator.md R102). -/
def Dem.feed (d : Dem) (raw : Byte) : Dem := (samples d.step raw).foldl Dem.cellStep d

/-- The state DEM_RESET leaves (40_demodulator.md R101): a function of the rate alone (70_reset_and_hazards.md
R272). -/
def Dem.newTrack (rate : Rate) : Dem where
  step := stepOfRate rate
  phase := .sync
  dacc := 0x00#8
  sacc := 0x00#8
  bcnt := 0
  obuf := []
  dinit := true

/-- The decoded track-side: OBUF padded with zero bytes to 3125 (40_demodulator.md R108). -/
def Dem.trackSide (d : Dem) : List Byte :=
  d.obuf ++ List.replicate (config.sideLen - d.obuf.length) 0x00#8

/-- DEM_RESET (40_demodulator.md R101). -/
def execDemReset (rate : Rate) (s : State) : Host.Outcome State Fault Refusal :=
  .next ((s.setDem (Dem.newTrack rate)).respond .ack)

/-- DEM_FEED (40_demodulator.md R102). -/
def execDemFeed (raw : Byte) (s : State) : Host.Outcome State Fault Refusal :=
  if s.dem.dinit then .next ((s.setDem (s.dem.feed raw)).respond .ack)
  else .next (s.raise .demNoInit)

/-- DEM_FINISH (40_demodulator.md R108): changes no state. -/
def execDemFinish (s : State) : Host.Outcome State Fault Refusal :=
  if s.dem.dinit then .next (s.respond (.bytes s.dem.trackSide))
  else .next (s.raise .demNoInit)

end Sys2Proof.Machine
end

