-- ==== Sys2Proof/Machine/Locator.lean ====
section
/-! DEFINITION. The sector-boundary pattern detector SSL (42_sector_locator.md): FindPat (R151), MarkRun (R154),
LocateScan (R155), and the meanings of SSL_CLEAR, SSL_LOAD and SSL_LOCATE. -/

namespace Sys2Proof.Machine

open Sys2Proof

/-- `T[i .. i + len(pat)) = pat`. -/
def Memory.holdsAt (t : Memory) : Nat → List Byte → Bool
  | _, [] => true
  | i, p :: ps => t.read i == p && Memory.holdsAt t (i + 1) ps

/-- FindPat(T, c, W, pat) (42_sector_locator.md R151): the offset from `c` of the first occurrence of `pat` that
lies wholly inside the window `T[c .. min(c + W, 3125))`. An offset whose occurrence would end past the window
is never an answer, so trying every offset below W answers as R151's loop does. -/
def findPat (t : Memory) (c w : Nat) (pat : List Byte) : Option Nat :=
  (List.range w).find? (fun p =>
    decide (c + p + pat.length ≤ min (c + w) config.sideLen) && t.holdsAt (c + p) pat)

/-- The loop of MarkRun from index `i`, with `n` indices left before 3125 (42_sector_locator.md R154). -/
def markFrom (t : Memory) : Nat → Mask → Nat → Mask × Nat
  | 0, m, i => (m, i)
  | n + 1, m, i => if t.read i = config.runByte then markFrom t n (markAt m i) (i + 1) else (m, i)

/-- MarkRun(T, M, s) (42_sector_locator.md R154): the mask with the run marked, and the index just past it. -/
def markRun (t : Memory) (m : Mask) (s : Nat) : Mask × Nat :=
  markFrom t (config.sideLen - (s + 1)) (markAt m s) (s + 1)

/-- What steps 1 to 4 leave at one sector: the mask and the cursor, and the reason they stopped, if they did. -/
structure SectorScan where
  mask : Mask
  cursor : Nat
  stopped : Option StopReason
  deriving DecidableEq, Repr

/-- What a scan leaves: `(M, n, c, stop)` (42_sector_locator.md R155). -/
structure Scan where
  mask : Mask
  count : Nat
  cursor : Nat
  stop : StopReason
  deriving DecidableEq, Repr

/-- Step 4 (42_sector_locator.md R160): MARK_B in the next 20 bytes, then 2 past its offset. -/
def sectorStep4 (t : Memory) (m : Mask) (c : Nat) : SectorScan :=
  match findPat t c config.wMarkB config.markB with
  | none => { mask := m, cursor := c, stopped := some .noMarkB }
  | some p => { mask := m, cursor := c + p + config.skipB, stopped := none }

/-- Step 3 (42_sector_locator.md R160): a run in the next 20 bytes, marked in full. -/
def sectorStep3 (t : Memory) (m : Mask) (c : Nat) : SectorScan :=
  match findPat t c config.wRun2 config.runPat with
  | none => { mask := m, cursor := c, stopped := some .noRun2 }
  | some p => sectorStep4 t (markRun t m (c + p)).1 (markRun t m (c + p)).2

/-- Step 2 (42_sector_locator.md R159): MARK_A in the next 10 bytes, then 7 past its offset. -/
def sectorStep2 (t : Memory) (m : Mask) (c : Nat) : SectorScan :=
  match findPat t c config.wMarkA config.markA with
  | none => { mask := m, cursor := c, stopped := some .noMarkA }
  | some p => sectorStep3 t m (c + p + config.skipA)

/-- Step 1 (42_sector_locator.md R158): a run in the next 100 bytes, marked in full. -/
def sectorStep1 (t : Memory) (m : Mask) (c : Nat) : SectorScan :=
  match findPat t c config.wRun1 config.runPat with
  | none => { mask := m, cursor := c, stopped := some .noRun1 }
  | some p => sectorStep2 t (markRun t m (c + p)).1 (markRun t m (c + p)).2

/-- Step 5, the payload skip (42_sector_locator.md R161): the next cursor, or `none` when the length-aware
strategy finds fewer than two bytes at the cursor. -/
def payloadSkip (t : Memory) (la : Strategy) (c : Nat) : Option Nat :=
  match la with
  | .fixed => some (c + config.fixedAdv)
  | .lengthAware =>
    if config.sideLen ≤ c + 1 then none else some (c + lengthField t c + config.lenExtra)

/-- The loop of LocateScan (42_sector_locator.md R155) with `k` sectors still to find, `n` found, from cursor
`c`. The scan ends right after the fifth sector, before its step 5 (R160), and at the head of a sector when
`c ≥ 3125` (R162). -/
def scanFrom (t : Memory) (la : Strategy) : Nat → Mask → Nat → Nat → Scan
  | 0, m, n, c => { mask := m, count := n, cursor := c, stop := .done }
  | k + 1, m, n, c =>
    if config.sideLen ≤ c then { mask := m, count := n, cursor := c, stop := .bound }
    else
      let r := sectorStep1 t m c
      match r.stopped with
      | some why => { mask := r.mask, count := n, cursor := r.cursor, stop := why }
      | none =>
        if k = 0 then { mask := r.mask, count := n + 1, cursor := r.cursor, stop := .done }
        else
          match payloadSkip t la r.cursor with
          | none => { mask := r.mask, count := n + 1, cursor := r.cursor, stop := .lenOob }
          | some c' => scanFrom t la k r.mask (n + 1) c'

/-- LocateScan(T, la) (42_sector_locator.md R155): MAX_SECTORS sectors to find, from cursor 0 with an empty
mask. -/
def locateScan (t : Memory) (la : Strategy) : Scan := scanFrom t la config.maxSectors 0#config.sideLen 0 0

/-- The count of a scan as SCOUNT holds it; a scan finds at most 5 sectors (42_sector_locator.md R163). -/
def Scan.scount (r : Scan) : Fin (config.maxSectors + 1) := Fin.ofNat _ r.count

/-- SSL after SSL_CLEAR (42_sector_locator.md R152): TBUF is kept. -/
def Ssl.cleared (l : Ssl) : Ssl where
  tbuf := l.tbuf
  lptr := 0
  mask := 0#config.sideLen
  scount := 0
  scur := 0#32
  sstrat := .fixed
  sstop := .none
  rvalid := false

/-- SSL after a load below 3125: the byte at LPTR, LPTR one further (42_sector_locator.md R153). -/
def Ssl.load (l : Ssl) (h : l.lptr.val < config.sideLen) (v : Byte) : Ssl :=
  { l with
    tbuf := l.tbuf.write l.lptr.val v
    lptr := ⟨l.lptr.val + 1, Nat.succ_lt_succ h⟩ }

/-- SSL after a scan's results are stored (42_sector_locator.md R156). -/
def Ssl.store (l : Ssl) (la : Strategy) (r : Scan) : Ssl :=
  { l with
    mask := r.mask
    scount := r.scount
    scur := word32 r.cursor
    sstrat := la
    sstop := r.stop
    rvalid := true }

/-- SSL_CLEAR (42_sector_locator.md R152). -/
def execSslClear (s : State) : Host.Outcome State Fault Refusal :=
  .next ((s.setSsl s.ssl.cleared).respond .ack)

/-- SSL_LOAD (42_sector_locator.md R153). LPTR is at most 3125, so "not below 3125" is R153's "= 3125". -/
def execSslLoad (data : Byte) (s : State) : Host.Outcome State Fault Refusal :=
  if h : s.ssl.lptr.val < config.sideLen then .next ((s.setSsl (s.ssl.load h data)).respond .ack)
  else .next (s.raise .sslFull)

/-- SSL_LOCATE (42_sector_locator.md R156). -/
def execSslLocate (la : Strategy) (s : State) : Host.Outcome State Fault Refusal :=
  if s.ssl.lptr.val = config.sideLen then
    .next ((s.setSsl (s.ssl.store la (locateScan s.ssl.tbuf la))).respond
      (.locate (locateScan s.ssl.tbuf la).scount (locateScan s.ssl.tbuf la).mask))
  else .next (s.raise .sslNotLoaded)

end Sys2Proof.Machine
end

