-- ==== Sys2Proof/Machine/Modulator.lean ====
section
/-! DEFINITION. The FM modulator MOD (41_modulator.md): FmWord (R132, R136), and the meanings of MOD_BEGIN, MOD_WORD
and MOD_END. -/

namespace Sys2Proof.Machine

open Sys2Proof

/-- One pass of FmWord's loop: shift the word left by 2 and put in `11` for a data bit 1, `01` for 0
(41_modulator.md R132). -/
def fmShift (w : Word) (b : Bool) : Word := (w <<< 2) ||| (if b then 3#16 else 1#16)

/-- FmWord(d, 0): the loop over data bits 0 … 7, least significant first (41_modulator.md R132). -/
def fmPlain (d : Byte) : Word := ((List.range 8).map (fun i => d.getLsbD i)).foldl fmShift 0#16

/-- FmWord(d, s) (41_modulator.md R132): with the sync flag, the word is masked with `0xEFFF`, which clears clock
cell c1 (R136). -/
def fmWord (d : Byte) (sync : Bool) : Word := if sync then fmPlain d &&& config.clkMask else fmPlain d

/-- `min(256, MOCNT + 2)` (41_modulator.md R133, 10_state.md R29). -/
def Mod.countWord (m : Mod) : Fin (config.minBlock + 1) :=
  ⟨min config.minBlock (m.mocnt.val + 2), Nat.lt_succ_of_le (Nat.min_le_left ..)⟩

/-- The FILL bytes MOD_END appends: `256 − MOCNT` of them, none at 256 (41_modulator.md R134). -/
def Mod.pad (m : Mod) : List Byte := List.replicate (config.minBlock - m.mocnt.val) config.fill

/-- MOD_BEGIN (41_modulator.md R131). -/
def execModBegin (s : State) : Host.Outcome State Fault Refusal :=
  if s.mod.mopen then .next (s.raise .modSeq)
  else .next ((s.setMod { mopen := true, mocnt := 0 }).respond .ack)

/-- MOD_WORD (41_modulator.md R133). -/
def execModWord (sync : Bool) (data : Byte) (s : State) : Host.Outcome State Fault Refusal :=
  if s.mod.mopen then
    .next ((s.setMod { s.mod with mocnt := s.mod.countWord }).respond (.bytes (wordBytes (fmWord data sync))))
  else .next (s.raise .modSeq)

/-- MOD_END (41_modulator.md R134): MOCNT keeps its value until the next MOD_BEGIN. -/
def execModEnd (s : State) : Host.Outcome State Fault Refusal :=
  if s.mod.mopen then .next ((s.setMod { s.mod with mopen := false }).respond (.bytes s.mod.pad))
  else .next (s.raise .modSeq)

end Sys2Proof.Machine
end

