-- ==== Sys2Proof/Machine/RegisterRead.lean ====
section
/-! DEFINITION. REG_READ (44_register_read.md R230) over the register map of 10_state.md R40. -/

namespace Sys2Proof.Machine

open Sys2Proof

/-- The value of register number `r`, `none` for the reserved numbers 0x0A … 0xFF (44_register_read.md R230). -/
def State.register (s : State) (r : Byte) : Option (BitVec 32) :=
  match r.toNat with
  | 0x00 => some s.dem.dstat
  | 0x01 => some (zext32 s.dem.dacc)
  | 0x02 => some (zext32 s.dem.sacc)
  | 0x03 => some s.dem.dolen
  | 0x04 => some s.mod.mstat
  | 0x05 => some (word32 s.mod.mocnt.val)
  | 0x06 => some (word32 s.ssl.lptr.val)
  | 0x07 => some s.ssl.sres
  | 0x08 => some s.ssl.scur
  | 0x09 => some s.errs.estat
  | _ => none

/-- REG_READ (44_register_read.md R230): legal in every state and changes none, but a reserved number raises
E_ILLEGAL like any other error. -/
def execRegRead (reg : Byte) (s : State) : Host.Outcome State Fault Refusal :=
  match s.register reg with
  | some v => .next (s.respond (.word v))
  | none => .next (s.raise .illegal)

end Sys2Proof.Machine
end

