-- ==== Sys2Proof/Machine/Dispatch.lean ====
section
/-! DEFINITION. The meaning of every command, one arm per constructor (30_encoding.md R82). -/

namespace Sys2Proof.Machine

open Sys2Proof

def exec (i : Instr) (s : State) : Host.Outcome State Fault Refusal :=
  match i with
  | .demReset rate => Sys2Proof.Machine.execDemReset rate s
  | .demFeed raw => Sys2Proof.Machine.execDemFeed raw s
  | .demFinish => Sys2Proof.Machine.execDemFinish s
  | .modBegin => Sys2Proof.Machine.execModBegin s
  | .modWord sync data => Sys2Proof.Machine.execModWord sync data s
  | .modEnd => Sys2Proof.Machine.execModEnd s
  | .sslClear => Sys2Proof.Machine.execSslClear s
  | .sslLoad data => Sys2Proof.Machine.execSslLoad data s
  | .sslLocate la => Sys2Proof.Machine.execSslLocate la s
  | .regRead reg => Sys2Proof.Machine.execRegRead reg s

end Sys2Proof.Machine
end

