-- ==== Sys2Proof/Machine/Port.lean ====
section
/-! DEFINITION. The command channel between the host and the block (00_scope.md R3, 43_host_interface.md R191;
log entries 1 and 2): the block takes the oldest command word the host has issued. -/

namespace Sys2Proof.Machine

open Sys2Proof

/-- Take the oldest command word off the queue; `none` when the host has issued nothing further. -/
def State.takeCommand (s : State) : Option (Word × State) :=
  match s.cmds with
  | [] => none
  | w :: rest => some (w, { s with cmds := rest })

/-- Put a command word where the next step takes it, ahead of any other. -/
def State.issue (s : State) (w : Word) : State := { s with cmds := w :: s.cmds }

end Sys2Proof.Machine
end

