-- ==== Sys2Proof/Machine/Step.lean ====
section
/-! DEFINITION. One step of the block: take the oldest command word issued, decode it, execute it (00_scope.md
R15, 20_memory.md R74). -/

namespace Sys2Proof.Machine

open Sys2Proof

/-- One step. With no command waiting the block is idle and keeps all state (60_exceptions.md R262, log entry
4). Otherwise the oldest word is taken off the queue; an illegal word raises E_ILLEGAL before any state
condition is looked at (R243), and a legal one is executed. -/
def step (s : State) : Host.Outcome State Fault Refusal :=
  match s.takeCommand with
  | none => .next s
  | some (w, s') =>
    match decode w with
    | .ok i => exec i s'
    | .error _ => .next (s'.raise .illegal)

/-- The state in which the given word is the next command (log entry 2): it stands for the host issuing it. -/
def State.withFetchWord (s : State) (nbits w : Nat) : State :=
  s.issue (BitVec.ofNat 16 (w % 2 ^ nbits))

end Sys2Proof.Machine
end

