-- ==== Sys2Proof/Machine/Assembler.lean ====
section
/-! DEFINITION. The assembler lines (30_encoding.md R87), the words they assemble to, and the pseudo-instructions
(R88). The block sees only the words. -/

namespace Sys2Proof.Machine

open Sys2Proof

/-- The register names of 10_state.md R40, which `reg.read` takes in place of a number (30_encoding.md R87). -/
inductive RegName
  | dstat
  | dacc
  | sacc
  | dolen
  | mstat
  | mocnt
  | lptr
  | sres
  | scur
  | estat
  deriving DecidableEq, Repr

/-- The number of a register name (10_state.md R40). -/
def RegName.number : RegName → Byte
  | .dstat => 0x00#8
  | .dacc => 0x01#8
  | .sacc => 0x02#8
  | .dolen => 0x03#8
  | .mstat => 0x04#8
  | .mocnt => 0x05#8
  | .lptr => 0x06#8
  | .sres => 0x07#8
  | .scur => 0x08#8
  | .estat => 0x09#8

/-- The lines of 30_encoding.md R87, one constructor per row; `reg.read` takes a number or a name. -/
inductive AsmLine
  | demReset125
  | demReset250
  | demFeed (b : Byte)
  | demFinish
  | modBegin
  | modWord (b : Byte)
  | modWordS (b : Byte)
  | modEnd
  | sslClear
  | sslLoad (b : Byte)
  | sslLocateFixed
  | sslLocateLen
  | regRead (r : Byte)
  | regReadName (r : RegName)
  deriving DecidableEq, Repr

/-- A byte operand as the low bits of a command word. -/
def operandWord (b : Byte) : Word := b.setWidth 16

/-- The word a line assembles to: the column "word" of 30_encoding.md R87. -/
def AsmLine.word : AsmLine → Word
  | .demReset125 => 0x1000#16
  | .demReset250 => 0x1100#16
  | .demFeed b => 0x2000#16 ||| operandWord b
  | .demFinish => 0x3000#16
  | .modBegin => 0x4000#16
  | .modWord b => 0x5000#16 ||| operandWord b
  | .modWordS b => 0x5100#16 ||| operandWord b
  | .modEnd => 0x6000#16
  | .sslClear => 0x7000#16
  | .sslLoad b => 0x8000#16 ||| operandWord b
  | .sslLocateFixed => 0x9000#16
  | .sslLocateLen => 0x9100#16
  | .regRead r => 0xA000#16 ||| operandWord r
  | .regReadName r => 0xA000#16 ||| operandWord r.number

/-- The command a line stands for (30_encoding.md R87, by its mnemonic and operands). -/
def AsmLine.instr : AsmLine → Instr
  | .demReset125 => .demReset .bitlen2
  | .demReset250 => .demReset .bitlen4
  | .demFeed b => .demFeed b
  | .demFinish => .demFinish
  | .modBegin => .modBegin
  | .modWord b => .modWord false b
  | .modWordS b => .modWord true b
  | .modEnd => .modEnd
  | .sslClear => .sslClear
  | .sslLoad b => .sslLoad b
  | .sslLocateFixed => .sslLocate .fixed
  | .sslLocateLen => .sslLocate .lengthAware
  | .regRead r => .regRead r
  | .regReadName r => .regRead r.number

/-- A byte operand's text (30_encoding.md R87): hexadecimal `0xNN`, or decimal. -/
def byteText (hex : Bool) (b : Byte) : String :=
  if hex then "0x" ++ (if b.toNat < 16 then "0" else "") ++ String.ofList (Nat.toDigits 16 b.toNat)
  else String.ofList (Nat.toDigits 10 b.toNat)

/-- A register name's text (30_encoding.md R87). -/
def RegName.text : RegName → String
  | .dstat => "dstat"
  | .dacc => "dacc"
  | .sacc => "sacc"
  | .dolen => "dolen"
  | .mstat => "mstat"
  | .mocnt => "mocnt"
  | .lptr => "lptr"
  | .sres => "sres"
  | .scur => "scur"
  | .estat => "estat"

/-- A line's text: the column "syntax" of 30_encoding.md R87, byte operands in hexadecimal or in decimal. -/
def AsmLine.text (hex : Bool) : AsmLine → String
  | .demReset125 => "dem.reset 125"
  | .demReset250 => "dem.reset 250"
  | .demFeed b => "dem.feed " ++ byteText hex b
  | .demFinish => "dem.finish"
  | .modBegin => "mod.begin"
  | .modWord b => "mod.word " ++ byteText hex b
  | .modWordS b => "mod.word.s " ++ byteText hex b
  | .modEnd => "mod.end"
  | .sslClear => "ssl.clear"
  | .sslLoad b => "ssl.load " ++ byteText hex b
  | .sslLocateFixed => "ssl.locate fixed"
  | .sslLocateLen => "ssl.locate len"
  | .regRead r => "reg.read " ++ byteText hex r
  | .regReadName r => "reg.read " ++ r.text

/-- `mod.block D, M` (30_encoding.md R88): the contract `encodeBlock`, its data bytes paired with their sync
flags. -/
def modBlock (pairs : List (Byte × Bool)) : List Instr :=
  .modBegin :: (pairs.map (fun p => Instr.modWord p.2 p.1) ++ [.modEnd])

/-- `ssl.fill T` (30_encoding.md R88): the `trackSideBytes` operand of `locate`. -/
def sslFill (track : List Byte) : List Instr := .sslClear :: track.map Instr.sslLoad

/-- `dem.decode rate, R` (30_encoding.md R88): the contract `reset(); feed(R); finish()`. -/
def demDecode (rate : Rate) (raw : List Byte) : List Instr :=
  .demReset rate :: (raw.map Instr.demFeed ++ [.demFinish])

end Sys2Proof.Machine
end

