-- ==== Sys2Proof/Machine/Container.lean ====
section
/-! DEFINITION. The container layouts at the block's boundary (43_host_interface.md R200 … R207), the host's error
kinds (60_exceptions.md R249 … R255) and the run's open parameters (92_eei_decisions.md D34, D35, D40, D41; log
entry 8). Host side: none of it is block state (10_state.md R48). -/

namespace Sys2Proof.Machine

open Sys2Proof

/-- The host's error kinds (60_exceptions.md R249, R250); each ends a run as a hard failure (R256). -/
inductive HostError
  /-- R251. -/
  | invalidSignature
  /-- R252. -/
  | unsupportedRevision
  /-- R253. -/
  | unsupportedGeometry
  /-- R254. -/
  | unsupportedBitrate
  /-- R255. -/
  | malformedTrack
  /-- R250: a read at or past the end of the source under HOST_OOB_READ = FAULT. -/
  | sourceTruncated
  /-- R250: the block answered a host command with ERROR. -/
  | blockFault
  deriving DecidableEq, Repr

/-- DIRECTION (43_host_interface.md R192). -/
inductive Direction
  | hfeToRdi
  | rdiToHfe
  deriving DecidableEq, Repr

/-- HOST_OOB_READ (92_eei_decisions.md D35): FAULT, or FILL(b). -/
inductive OobRead
  | fault
  | fill (b : Byte)
  deriving DecidableEq, Repr

/-- The parameters of a run that the spec leaves OPEN. -/
structure HostParams where
  /-- DIRECTION, D41. -/
  direction : Direction
  /-- HOST_OOB_READ, D35. -/
  oobRead : OobRead
  /-- HFE_IFACE_CODE, D34. -/
  ifaceCode : Byte
  /-- HFE_HDR_OTHER, D40: entry `i` is header byte `i` (0 past the list's end); only entries 11, 17 and
  20 … 511 are used. -/
  hdrOther : List Byte
  deriving DecidableEq, Repr

/-- The ASCII `HXCPICFE` (43_host_interface.md R200). -/
def hfeSignature : List Byte := config.hfeSignature

/-- Read byte `a` of a source; at or past its end HOST_OOB_READ decides (43_host_interface.md R208). -/
def srcByte (oob : OobRead) (src : List Byte) (a : Nat) : Except HostError Byte :=
  match src[a]? with
  | some b => .ok b
  | none =>
    match oob with
    | .fault => .error .sourceTruncated
    | .fill b => .ok b

/-- Read the 16-bit little-endian field at byte `a` (43_host_interface.md R200, 20_memory.md R66). -/
def srcU16 (oob : OobRead) (src : List Byte) (a : Nat) : Except HostError Nat :=
  match srcByte oob src a with
  | .error e => .error e
  | .ok lo =>
    match srcByte oob src (a + 1) with
    | .error e => .error e
    | .ok hi => .ok (le16 lo hi)

/-- Read the bytes at a list of addresses, in order. -/
def srcBytes (oob : OobRead) (src : List Byte) : List Nat → Except HostError (List Byte)
  | [] => .ok []
  | a :: rest =>
    match srcByte oob src a with
    | .error e => .error e
    | .ok b =>
      match srcBytes oob src rest with
      | .error e => .error e
      | .ok bs => .ok (b :: bs)

/-- The byte where entry `t` of the lookup table at block `lo` starts (43_host_interface.md R201). -/
def lutEntry (lo t : Nat) : Nat := config.hfeBlock * lo + 4 * t

/-- OFF(t), the track's offset in 512-byte blocks: an entry's first field (43_host_interface.md R201). -/
def trackBlock (oob : OobRead) (src : List Byte) (lo t : Nat) : Except HostError Nat :=
  srcU16 oob src (lutEntry lo t)

/-- LEN(t), the track's length in bytes: an entry's second field (43_host_interface.md R201, 90_conflicts.md
C3). -/
def trackLen (oob : OobRead) (src : List Byte) (lo t : Nat) : Except HostError Nat :=
  srcU16 oob src (lutEntry lo t + 2)

/-- The lookup-table offset of a header, in 512-byte blocks (43_host_interface.md R200). -/
def lutBlock (oob : OobRead) (src : List Byte) : Except HostError Nat := srcU16 oob src 18

/-- TRACK_MIN_LEN (00_scope.md R6). -/
def trackMinLen (rate : Rate) : Nat := config.trackMinLen (bitLenOfRate rate)

/-- The rate of a bitrate field: 125 gives BITLEN 2, 250 gives BITLEN 4 (43_host_interface.md R195). -/
def rateOfBitrate (kbps : Nat) : Except HostError Rate :=
  if kbps = config.bitrate125 then .ok .bitlen2
  else if kbps = config.bitrate250 then .ok .bitlen4
  else .error .unsupportedBitrate

/-- Check 5 of 43_host_interface.md R204 for the listed tracks, in order. -/
def checkTrackLens (oob : OobRead) (src : List Byte) (lo : Nat) (rate : Rate) :
    List Nat → Except HostError Unit
  | [] => .ok ()
  | t :: rest =>
    match trackLen oob src lo t with
    | .error e => .error e
    | .ok len =>
      if len < trackMinLen rate then .error .malformedTrack else checkTrackLens oob src lo rate rest

/-- Checks 4 and 5 of 43_host_interface.md R204: the bitrate, which fixes BITLEN, then every track's length. -/
def checkRateAndTracks (oob : OobRead) (src : List Byte) : Except HostError (Rate × Nat) :=
  match srcU16 oob src 12 with
  | .error e => .error e
  | .ok kbps =>
    match rateOfBitrate kbps with
    | .error e => .error e
    | .ok rate =>
      match lutBlock oob src with
      | .error e => .error e
      | .ok lo =>
        match checkTrackLens oob src lo rate (List.range config.nTracks) with
        | .error e => .error e
        | .ok _ => .ok (rate, lo)

/-- Validation of an HFE source (43_host_interface.md R204), the checks in its order: the signature, with a
source under 512 bytes failing it (60_exceptions.md R251), the revision (R252), the track count and the side
count (R253), the bitrate (R254), and the track lengths (R255). It answers the rate and the lookup table's
block. -/
def validateHfe (oob : OobRead) (src : List Byte) : Except HostError (Rate × Nat) :=
  if src.length < config.hfeBlock ∨ src.take hfeSignature.length ≠ hfeSignature then .error .invalidSignature
  else if src[8]? ≠ some config.hfeRevision then .error .unsupportedRevision
  else if src[9]? ≠ some (BitVec.ofNat 8 config.nTracks) ∨ src[10]? ≠ some (BitVec.ofNat 8 config.nSides) then
    .error .unsupportedGeometry
  else checkRateAndTracks oob src

/-- HfeRawOffset(t, s, pos) (43_host_interface.md R202), with the track's data starting at block `off` (R201) and
side 1 in the first half of each block (R203). -/
def hfeRawOffset (rate : Rate) (off side pos : Nat) : Nat :=
  config.hfeBlock * off + (pos * bitLenOfRate rate) / config.hfeHalf * config.hfeBlock +
    (1 - side) * config.hfeHalf + (pos * bitLenOfRate rate) % config.hfeHalf

/-- The addresses of a track-side's raw bytes in feed order: positions in increasing order, and the BITLEN
bytes of each in increasing address order (43_host_interface.md R193, R194). -/
def rawAddresses (rate : Rate) (off side : Nat) : List Nat :=
  (List.range config.sideLen).flatMap (fun pos =>
    (List.range (bitLenOfRate rate)).map (fun j => hfeRawOffset rate off side pos + j))

/-- The length of an RDI image: `80 × 6250` bytes (43_host_interface.md R207, R210). -/
def rdiLength : Nat := config.nTracks * config.nSides * config.sideLen

/-- Side `s` of track `t` of an RDI image: the 3125 bytes at `(2t + s) × 3125` (43_host_interface.md R207). -/
def rdiSide (src : List Byte) (t s : Nat) : List Byte :=
  (src.drop ((config.nSides * t + s) * config.sideLen)).take config.sideLen

/-- A 16-bit field, low byte first (43_host_interface.md R200). -/
def le16Bytes (n : Nat) : List Byte := [BitVec.ofNat 8 n, BitVec.ofNat 8 (n / 256)]

/-- Chunks per track-side: 24 of 128 bytes and one of 53, so 25 (43_host_interface.md R196). -/
def chunksPerSide : Nat := (config.sideLen + config.chunk - 1) / config.chunk

/-- The lookup table's block in a written image: 1, after the header's one block (43_host_interface.md R205). -/
def writtenLutBlock : Nat := 1

/-- OFF(t) in a written image: `2 + 25t`, one block for each chunk of a track (43_host_interface.md R205). -/
def writtenTrackBlock (t : Nat) : Nat := 2 + chunksPerSide * t

/-- The 512-byte header the host writes (43_host_interface.md R205; bytes 14 … 16 PRESUMED, log entry 12). -/
def hfeHeader (p : HostParams) : List Byte :=
  hfeSignature ++ [config.hfeRevision, BitVec.ofNat 8 config.nTracks, BitVec.ofNat 8 config.nSides,
      p.hdrOther.getD 11 0#8] ++ le16Bytes config.bitrate125 ++ le16Bytes config.hfeRpmW ++
    [p.ifaceCode, p.hdrOther.getD 17 0#8] ++ le16Bytes writtenLutBlock ++
    (List.range (config.hfeBlock - 20)).map (fun k => p.hdrOther.getD (20 + k) 0#8)

/-- The lookup table the host writes, block 1: OFF(t) = 2 + 25t, LEN(t) = 12504, padded to 512 bytes with 0xFF
(43_host_interface.md R205). -/
def hfeLookupTable : List Byte :=
  (List.range config.nTracks).flatMap (fun t => le16Bytes (writtenTrackBlock t) ++ le16Bytes config.hfeTrackLenW) ++
    List.replicate (config.hfeBlock - 4 * config.nTracks) 0xFF#8

end Sys2Proof.Machine
end

