-- ==== Sys2Proof/Machine/Converter.lean ====
section
/-! DEFINITION. The host's use of the block (43_host_interface.md): issuing commands and waiting for responses
(R191), DecodeSide (R193), ChooseMask (R197), EncodeTrack (R198), and a whole run with its result (R211, R212;
60_exceptions.md R256 … R258). Everything goes through `step`. -/

namespace Sys2Proof.Machine

open Sys2Proof

/-- Issue one command and wait for its response (43_host_interface.md R191). An ERROR response, or a block that
does not answer with exactly one response, is a host fault (60_exceptions.md R250). -/
def hostIssue (b : State) (i : Instr) : Except HostError (State × Response) :=
  match step { b with cmds := [encode i], resps := [] } with
  | .next t =>
    match t.resps with
    | [.error _] => .error .blockFault
    | [r] => .ok (t, r)
    | _ => .error .blockFault
  | .fault _ => .error .blockFault
  | .refused _ => .error .blockFault

/-- Issue commands in order, each after the response to the one before (43_host_interface.md R191). -/
def hostRun : State → List Instr → Except HostError (State × List Response)
  | b, [] => .ok (b, [])
  | b, i :: rest =>
    match hostIssue b i with
    | .error e => .error e
    | .ok (b', r) =>
      match hostRun b' rest with
      | .error e => .error e
      | .ok (b'', rs) => .ok (b'', r :: rs)

/-- The bytes of one response. -/
def Response.byteSeq : Response → List Byte
  | .bytes s => s
  | _ => []

/-- The concatenation, in order, of the BYTES responses (30_encoding.md R86). -/
def responseBytes (rs : List Response) : List Byte := rs.flatMap Response.byteSeq

/-- The contract `reset(); feed(R); finish()` run on a block (30_encoding.md R86, R88). -/
def runDecode (b : State) (rate : Rate) (raw : List Byte) : Except HostError (State × List Byte) :=
  match hostRun b (demDecode rate raw) with
  | .error e => .error e
  | .ok (b', rs) => .ok (b', responseBytes rs)

/-- The contract `encodeBlock(d, f)` run on a block (30_encoding.md R86, 41_modulator.md R135). -/
def runEncodeBlock (b : State) (pairs : List (Byte × Bool)) : Except HostError (State × List Byte) :=
  match hostRun b (modBlock pairs) with
  | .error e => .error e
  | .ok (b', rs) => .ok (b', responseBytes rs)

/-- SSL_LOCATE and its LOCATE response (30_encoding.md R86). -/
def runLocate (b : State) (la : Strategy) : Except HostError (State × Fin (config.maxSectors + 1) × Mask) :=
  match hostIssue b (.sslLocate la) with
  | .error e => .error e
  | .ok (b', .locate n m) => .ok (b', n, m)
  | .ok _ => .error .blockFault

/-- What ChooseMask returns: the block after it, the mask, and whether there is a warning. -/
structure Chosen where
  block : State
  mask : Mask
  warning : Bool
  deriving DecidableEq, Repr

/-- The length-aware retry of ChooseMask: its mask is used even when it falls short (43_host_interface.md
R197). -/
def retryLengthAware (b : State) : Except HostError Chosen :=
  match runLocate b .lengthAware with
  | .error e => .error e
  | .ok (b', n, m) => .ok { block := b', mask := m, warning := decide (n.val ≠ config.maxSectors) }

/-- ChooseMask(T) (43_host_interface.md R197): the fixed strategy first, and the length-aware one unless it
found exactly 5 sectors. -/
def chooseMask (b : State) (track : List Byte) : Except HostError Chosen :=
  match hostRun b (sslFill track) with
  | .error e => .error e
  | .ok (b₁, _) =>
    match runLocate b₁ .fixed with
    | .error e => .error e
    | .ok (b₂, n, m) =>
      if n.val = config.maxSectors then .ok { block := b₂, mask := m, warning := false } else retryLengthAware b₂

/-- Chunk `k` of a track-side with its sync flags: bytes `128k … 128k + 127`, at most to the side's end
(43_host_interface.md R196). -/
def chunkPairs (track : List Byte) (m : Mask) (k : Nat) : List (Byte × Bool) :=
  ((track.mapIdx (fun i d => (d, m.getLsbD i))).drop (config.chunk * k)).take config.chunk

/-- The blocks of a track for the listed chunks: side 1's encoded chunk, then side 0's (43_host_interface.md
R198, R206). -/
def encodeChunks (t1 t0 : List Byte) (m1 m0 : Mask) : State → List Nat → Except HostError (State × List Byte)
  | b, [] => .ok (b, [])
  | b, k :: rest =>
    match runEncodeBlock b (chunkPairs t1 m1 k) with
    | .error e => .error e
    | .ok (b₁, side1) =>
      match runEncodeBlock b₁ (chunkPairs t0 m0 k) with
      | .error e => .error e
      | .ok (b₂, side0) =>
        match encodeChunks t1 t0 m1 m0 b₂ rest with
        | .error e => .error e
        | .ok (b₃, more) => .ok (b₃, side1 ++ (side0 ++ more))

/-- What encoding tracks leaves: the block, the bytes written, and the track-sides warned of. -/
structure Encoded where
  block : State
  bytes : List Byte
  warnings : List (Nat × Nat)
  deriving DecidableEq, Repr

/-- A warning for a track-side, if there is one (43_host_interface.md R199). -/
def warningFor (warned : Bool) (t s : Nat) : List (Nat × Nat) := if warned then [(t, s)] else []

/-- EncodeTrack(t) (43_host_interface.md R198): locate side 1, locate side 0, then write the 25 blocks. -/
def encodeTrack (b : State) (src : List Byte) (t : Nat) : Except HostError Encoded :=
  match chooseMask b (rdiSide src t 1) with
  | .error e => .error e
  | .ok c1 =>
    match chooseMask c1.block (rdiSide src t 0) with
    | .error e => .error e
    | .ok c0 =>
      match encodeChunks (rdiSide src t 1) (rdiSide src t 0) c1.mask c0.mask c0.block (List.range chunksPerSide) with
      | .error e => .error e
      | .ok (b', bytes) =>
        .ok { block := b', bytes := bytes, warnings := warningFor c1.warning t 1 ++ warningFor c0.warning t 0 }

/-- EncodeTrack for the listed tracks in turn (43_host_interface.md R198). -/
def encodeTracks (src : List Byte) : State → List Nat → Except HostError Encoded
  | b, [] => .ok { block := b, bytes := [], warnings := [] }
  | b, t :: rest =>
    match encodeTrack b src t with
    | .error e => .error e
    | .ok r =>
      match encodeTracks src r.block rest with
      | .error e => .error e
      | .ok r' => .ok { block := r'.block, bytes := r.bytes ++ r'.bytes, warnings := r.warnings ++ r'.warnings }

/-- DecodeSide(t, s) (43_host_interface.md R193). The raw bytes are read before the first is fed, which no
response can tell apart from reading each as it is fed (log entry 9). -/
def decodeSide (oob : OobRead) (src : List Byte) (rate : Rate) (lo : Nat) (b : State) (t s : Nat) :
    Except HostError (State × List Byte) :=
  match trackBlock oob src lo t with
  | .error e => .error e
  | .ok off =>
    match srcBytes oob src (rawAddresses rate off s) with
    | .error e => .error e
    | .ok raw => runDecode b rate raw

/-- DecodeSide for the listed track-sides in turn, the sides joined in order: with the track-sides in the order
of 43_host_interface.md R193, side `s` of track `t` lands at RDI offset `(2t + s) × 3125` (R207). -/
def decodeSides (oob : OobRead) (src : List Byte) (rate : Rate) (lo : Nat) :
    State → List (Nat × Nat) → Except HostError (List Byte)
  | _, [] => .ok []
  | b, ts :: rest =>
    match decodeSide oob src rate lo b ts.1 ts.2 with
    | .error e => .error e
    | .ok (b', side) =>
      match decodeSides oob src rate lo b' rest with
      | .error e => .error e
      | .ok more => .ok (side ++ more)

/-- The 160 track-sides: tracks 0 … 79, sides 0, 1 of each (43_host_interface.md R190, R193). -/
def trackSides : List (Nat × Nat) := (List.range config.nTracks).flatMap (fun t => (List.range config.nSides).map (fun s => (t, s)))

/-- The result of a run (43_host_interface.md R211, 60_exceptions.md R258). -/
inductive RunResult
  /-- Clean success. -/
  | clean
  /-- "Completed with warnings": the warned (track, side) pairs. -/
  | warned (sides : List (Nat × Nat))
  /-- Hard failure, with its kind. -/
  | hard (kind : HostError)
  deriving DecidableEq, Repr

/-- What a run leaves: its result and the destination's bytes. -/
structure Run where
  result : RunResult
  dest : List Byte
  deriving DecidableEq, Repr

/-- The result of a run that no error stopped (60_exceptions.md R257, R258). -/
def resultOf (warnings : List (Nat × Nat)) : RunResult :=
  if warnings = [] then .clean else .warned warnings

/-- HFE to RDI (43_host_interface.md R192 … R195): validate, then decode the 160 track-sides. -/
def hfeToRdi (oob : OobRead) (src : List Byte) (b : State) : Except HostError (List Byte) :=
  match validateHfe oob src with
  | .error e => .error e
  | .ok (rate, lo) => decodeSides oob src rate lo b trackSides

/-- RDI to HFE (43_host_interface.md R196 … R199, R205 … R207): check the length, then write the header, the
lookup table and the tracks. -/
def rdiToHfe (p : HostParams) (src : List Byte) (b : State) : Except HostError Encoded :=
  if src.length ≠ rdiLength then .error .unsupportedGeometry
  else
    match encodeTracks src b (List.range config.nTracks) with
    | .error e => .error e
    | .ok r => .ok { r with bytes := hfeHeader p ++ (hfeLookupTable ++ r.bytes) }

/-- A whole run (43_host_interface.md R192, R211): a hard failure writes nothing (R212) and discards any
warnings (60_exceptions.md R256, R257). -/
def convert (p : HostParams) (src : List Byte) (b : State) : Run :=
  match p.direction with
  | .hfeToRdi =>
    match hfeToRdi p.oobRead src b with
    | .error e => { result := .hard e, dest := [] }
    | .ok out => { result := .clean, dest := out }
  | .rdiToHfe =>
    match rdiToHfe p src b with
    | .error e => { result := .hard e, dest := [] }
    | .ok r => { result := resultOf r.warnings, dest := r.bytes }

end Sys2Proof.Machine
end

