-- ==== Sys2Proof/Safety.lean ====
section
/-! DEFINITION. What counts as a legal state and a safe run, and the relations the statements use. -/

namespace Sys2Proof.Machine

open Sys2Proof

/-- DEM's legal states: OBUF holds at most 3125 bytes (10_state.md R26), and before the first DEM_RESET DEM is as
power-on reset left it (R27, R46). -/
def Dem.Legal (d : Dem) : Prop := d.obuf.length ≤ 3125 ∧ (d.dinit = false → d = Dem.powerOn)

/-- MOD's legal states: MOCNT is even (10_state.md R40). -/
def Mod.Legal (m : Mod) : Prop := m.mocnt.val % 2 = 0

/-- The result registers hold what a scan with the recorded strategy gives on TBUF. -/
def Ssl.ResultsOf (l : Ssl) (r : Scan) : Prop :=
  l.mask = r.mask ∧ l.scount.val = r.count ∧ l.scur.toNat = r.cursor ∧ l.sstop = r.stop

/-- The result registers after SSL_CLEAR (10_state.md R37). -/
def Ssl.NoResults (l : Ssl) : Prop :=
  l.mask = 0#config.sideLen ∧ l.scount = 0 ∧ l.scur = 0#32 ∧ l.sstrat = .fixed ∧ l.sstop = .none

/-- SSL's legal states: TBUF is canonical; while RVALID is 0 the results are all 0 (10_state.md R37), and while
it is 1 the track-side is fully loaded and the results are those of the scan of TBUF (R32 … R36). -/
def Ssl.Legal (l : Ssl) : Prop :=
  l.tbuf.wf ∧ (l.rvalid = false → l.NoResults) ∧
    (l.rvalid = true → l.lptr.val = 3125 ∧ l.ResultsOf (locateScan l.tbuf l.sstrat))

/-- Legal error states: ECODE is 0 while ERR is 0 (10_state.md R39), and one of 1 … 5 else (60_exceptions.md
R242). -/
def Errs.Legal (e : Errs) : Prop :=
  (e.err = false ∧ e.ecode = 0#4) ∨ (e.err = true ∧ 1 ≤ e.ecode.toNat ∧ e.ecode.toNat ≤ 5)

/-- The invariant of the machine. -/
def State.Inv (s : State) : Prop := s.dem.Legal ∧ s.mod.Legal ∧ s.ssl.Legal ∧ s.errs.Legal

/-- A command responds ERROR(c): it ends in a next state with that one response added. -/
def RespondsError (i : Instr) (s : State) (c : ErrCode) : Prop :=
  ∃ t, exec i s = .next t ∧ t.resps = s.resps ++ [.error c]

/-- A word is illegal: whatever the state, the block takes it off the queue, responds ERROR(E_ILLEGAL), and changes
nothing but ERR and ECODE, and those only if ERR was 0 (30_encoding.md R83, 60_exceptions.md R241). -/
def RaisesIllegal (w : Word) : Prop :=
  ∀ s rest, s.cmds = w :: rest → step s = .next
    { s with
      cmds := rest
      errs := if s.errs.err then s.errs else { err := true, ecode := 1#4 }
      resps := s.resps ++ [.error .illegal] }

/-- The track V1 of 42_sector_locator.md R156's example (95_test_vectors.md section 4): five sectors of 564 bytes,
then zero bytes to 3125. -/
def trackV1 : List Byte :=
  (List.replicate 5 (List.replicate 10 0x00#8 ++ List.replicate 6 0x06#8 ++
    [0xEA#8, 0xD3#8, 0x01#8, 0x00#8, 0x02#8, 0x00#8, 0x00#8, 0x00#8, 0x00#8, 0x00#8] ++
    List.replicate 6 0x06#8 ++ [0xDD#8, 0xF3#8, 0xF4#8, 0x01#8] ++ List.replicate 528 0xE5#8)).flatten ++
    List.replicate 305 0x00#8

/-- The unit a command addresses (70_reset_and_hazards.md R277); REG_READ addresses none of the three. -/
inductive BlockUnit
  | dem
  | mod
  | ssl
  | reg
  deriving DecidableEq, Repr

/-- The unit of each command (30_encoding.md R82, by mnemonic). -/
def unitOf : Instr → BlockUnit
  | .demReset _ => .dem
  | .demFeed _ => .dem
  | .demFinish => .dem
  | .modBegin => .mod
  | .modWord _ _ => .mod
  | .modEnd => .mod
  | .sslClear => .ssl
  | .sslLoad _ => .ssl
  | .sslLocate _ => .ssl
  | .regRead _ => .reg

/-- Two states agree on a unit's fields. -/
def AgreeOn (u : BlockUnit) (s t : State) : Prop :=
  match u with
  | .dem => s.dem = t.dem
  | .mod => s.mod = t.mod
  | .ssl => s.ssl = t.ssl
  | .reg => s.dem = t.dem ∧ s.mod = t.mod ∧ s.ssl = t.ssl ∧ s.errs = t.errs

/-- The commands of a sequence, each with the responses it adds to the response channel. -/
def transcript : State → List Instr → List (Instr × Response)
  | _, [] => []
  | s, i :: rest =>
    match exec i s with
    | .next t => (t.resps.drop s.resps.length).map (fun r => (i, r)) ++ transcript t rest
    | .fault _ => []
    | .refused _ => []

/-- Two states that differ at most in TBUF bytes not loaded since SSL_CLEAR (10_state.md R47). -/
def SameButUnloaded (s t : State) : Prop :=
  t = { s with ssl := { s.ssl with tbuf := t.ssl.tbuf } } ∧
    ∀ a, a < s.ssl.lptr.val → s.ssl.tbuf.read a = t.ssl.tbuf.read a

/-- LocateScan as the rules word it (42_sector_locator.md R155, R158 … R162), case by case: from the head of a
sector with mask `m`, count `n` and cursor `c`, the scan ends in a result. -/
inductive ScanRuns (t : Memory) (la : Strategy) : Mask → Nat → Nat → Scan → Prop
  /-- R162: the cursor is at or past 3125. -/
  | bound {m n c} (h : 3125 ≤ c) :
      ScanRuns t la m n c { mask := m, count := n, cursor := c, stop := .bound }
  /-- R158: no run in the next 100 bytes. -/
  | noRun1 {m n c} (h : c < 3125) (h₁ : findPat t c 100 [0x06#8, 0x06#8, 0x06#8] = none) :
      ScanRuns t la m n c { mask := m, count := n, cursor := c, stop := .noRun1 }
  /-- R159: no EA D3 in the 10 bytes after the run. -/
  | noMarkA {m n c p m₁ c₁} (h : c < 3125) (h₁ : findPat t c 100 [0x06#8, 0x06#8, 0x06#8] = some p)
      (hr₁ : markRun t m (c + p) = (m₁, c₁)) (h₂ : findPat t c₁ 10 [0xEA#8, 0xD3#8] = none) :
      ScanRuns t la m n c { mask := m₁, count := n, cursor := c₁, stop := .noMarkA }
  /-- R160, step 3: no run in the 20 bytes from 7 past the offset of EA D3. -/
  | noRun2 {m n c p m₁ c₁ q} (h : c < 3125) (h₁ : findPat t c 100 [0x06#8, 0x06#8, 0x06#8] = some p)
      (hr₁ : markRun t m (c + p) = (m₁, c₁)) (h₂ : findPat t c₁ 10 [0xEA#8, 0xD3#8] = some q)
      (h₃ : findPat t (c₁ + q + 7) 20 [0x06#8, 0x06#8, 0x06#8] = none) :
      ScanRuns t la m n c { mask := m₁, count := n, cursor := c₁ + q + 7, stop := .noRun2 }
  /-- R160, step 4: no DD F3 in the 20 bytes after the second run. -/
  | noMarkB {m n c p m₁ c₁ q u m₂ c₂} (h : c < 3125)
      (h₁ : findPat t c 100 [0x06#8, 0x06#8, 0x06#8] = some p) (hr₁ : markRun t m (c + p) = (m₁, c₁))
      (h₂ : findPat t c₁ 10 [0xEA#8, 0xD3#8] = some q)
      (h₃ : findPat t (c₁ + q + 7) 20 [0x06#8, 0x06#8, 0x06#8] = some u)
      (hr₂ : markRun t m₁ (c₁ + q + 7 + u) = (m₂, c₂)) (h₄ : findPat t c₂ 20 [0xDD#8, 0xF3#8] = none) :
      ScanRuns t la m n c { mask := m₂, count := n, cursor := c₂, stop := .noMarkB }
  /-- R160: the fifth sector ends the scan before its step 5. -/
  | done {m c p m₁ c₁ q u m₂ c₂ v} (h : c < 3125)
      (h₁ : findPat t c 100 [0x06#8, 0x06#8, 0x06#8] = some p) (hr₁ : markRun t m (c + p) = (m₁, c₁))
      (h₂ : findPat t c₁ 10 [0xEA#8, 0xD3#8] = some q)
      (h₃ : findPat t (c₁ + q + 7) 20 [0x06#8, 0x06#8, 0x06#8] = some u)
      (hr₂ : markRun t m₁ (c₁ + q + 7 + u) = (m₂, c₂)) (h₄ : findPat t c₂ 20 [0xDD#8, 0xF3#8] = some v) :
      ScanRuns t la m 4 c { mask := m₂, count := 5, cursor := c₂ + v + 2, stop := .done }
  /-- R161: the length-aware strategy finds fewer than two bytes at the cursor. -/
  | lenOob {m n c p m₁ c₁ q u m₂ c₂ v} (h : c < 3125) (hn : n < 4) (hla : la = .lengthAware)
      (h₁ : findPat t c 100 [0x06#8, 0x06#8, 0x06#8] = some p) (hr₁ : markRun t m (c + p) = (m₁, c₁))
      (h₂ : findPat t c₁ 10 [0xEA#8, 0xD3#8] = some q)
      (h₃ : findPat t (c₁ + q + 7) 20 [0x06#8, 0x06#8, 0x06#8] = some u)
      (hr₂ : markRun t m₁ (c₁ + q + 7 + u) = (m₂, c₂)) (h₄ : findPat t c₂ 20 [0xDD#8, 0xF3#8] = some v)
      (h₅ : 3125 ≤ c₂ + v + 2 + 1) :
      ScanRuns t la m n c { mask := m₂, count := n + 1, cursor := c₂ + v + 2, stop := .lenOob }
  /-- R161: the fixed strategy goes on 530 bytes further. -/
  | skipFixed {m n c p m₁ c₁ q u m₂ c₂ v r} (h : c < 3125) (hn : n < 4) (hla : la = .fixed)
      (h₁ : findPat t c 100 [0x06#8, 0x06#8, 0x06#8] = some p) (hr₁ : markRun t m (c + p) = (m₁, c₁))
      (h₂ : findPat t c₁ 10 [0xEA#8, 0xD3#8] = some q)
      (h₃ : findPat t (c₁ + q + 7) 20 [0x06#8, 0x06#8, 0x06#8] = some u)
      (hr₂ : markRun t m₁ (c₁ + q + 7 + u) = (m₂, c₂)) (h₄ : findPat t c₂ 20 [0xDD#8, 0xF3#8] = some v)
      (next : ScanRuns t la m₂ (n + 1) (c₂ + v + 2 + 530) r) :
      ScanRuns t la m n c r
  /-- R161: the length-aware strategy goes on by the length field and 30. -/
  | skipLength {m n c p m₁ c₁ q u m₂ c₂ v r} (h : c < 3125) (hn : n < 4) (hla : la = .lengthAware)
      (h₁ : findPat t c 100 [0x06#8, 0x06#8, 0x06#8] = some p) (hr₁ : markRun t m (c + p) = (m₁, c₁))
      (h₂ : findPat t c₁ 10 [0xEA#8, 0xD3#8] = some q)
      (h₃ : findPat t (c₁ + q + 7) 20 [0x06#8, 0x06#8, 0x06#8] = some u)
      (hr₂ : markRun t m₁ (c₁ + q + 7 + u) = (m₂, c₂)) (h₄ : findPat t c₂ 20 [0xDD#8, 0xF3#8] = some v)
      (h₅ : c₂ + v + 2 + 1 < 3125)
      (next : ScanRuns t la m₂ (n + 1)
        (c₂ + v + 2 + ((t.read (c₂ + v + 2)).toNat + 256 * (t.read (c₂ + v + 2 + 1)).toNat) + 30) r) :
      ScanRuns t la m n c r

end Sys2Proof.Machine
end

