-- ==== Sys2Proof/Certificates/Slice0/Obligations.lean ====
section
/-! DEFINITION. The statements about the model, each from the numbered rules of spec/ that its docstring names. -/

open Sys2Proof Sys2Proof.Machine

/-! ## Encoding -/

/-- Decoding the word of any command, with every value of every operand, gives the command back (30_encoding.md
R80 … R84). -/
def Obligations.DecodeOfEncode : Prop := ∀ i : Instr, decode (encode i) = .ok i

/-- A legal word is the word of the command it decodes to: no bit of it is ignored (30_encoding.md R82, R83). -/
def Obligations.EncodeOfDecode : Prop := ∀ (w : Word) (i : Instr), decode w = .ok i → encode i = w

/-- At most one row of the opcode map selects any word (30_encoding.md R82). -/
def Obligations.OneRowPerWord : Prop :=
  ∀ w : Word, opcodeRows.Pairwise (fun r r' => ¬ (r.selects w = true ∧ r'.selects w = true))

/-- The decoding procedure of 30_encoding.md R84: each row of the map with its operation on F = w[8] and
D = w[7:0], and E_ILLEGAL for a word that matches none. -/
def Obligations.DecodeFollowsTable : Prop :=
  ∀ w : Word,
    (w &&& 0xFEFF#16 = 0x1000#16 → decode w = .ok (.demReset (if w.getLsbD 8 then .bitlen4 else .bitlen2))) ∧
    (w &&& 0xFF00#16 = 0x2000#16 → decode w = .ok (.demFeed (w.setWidth 8))) ∧
    (w &&& 0xFFFF#16 = 0x3000#16 → decode w = .ok .demFinish) ∧
    (w &&& 0xFFFF#16 = 0x4000#16 → decode w = .ok .modBegin) ∧
    (w &&& 0xFE00#16 = 0x5000#16 → decode w = .ok (.modWord (w.getLsbD 8) (w.setWidth 8))) ∧
    (w &&& 0xFFFF#16 = 0x6000#16 → decode w = .ok .modEnd) ∧
    (w &&& 0xFFFF#16 = 0x7000#16 → decode w = .ok .sslClear) ∧
    (w &&& 0xFF00#16 = 0x8000#16 → decode w = .ok (.sslLoad (w.setWidth 8))) ∧
    (w &&& 0xFEFF#16 = 0x9000#16 → decode w = .ok (.sslLocate (if w.getLsbD 8 then .lengthAware else .fixed))) ∧
    (w &&& 0xFF00#16 = 0xA000#16 → decode w = .ok (.regRead (w.setWidth 8))) ∧
    ((∀ r ∈ [(0x1000#16, 0xFEFF#16), (0x2000#16, 0xFF00#16), (0x3000#16, 0xFFFF#16), (0x4000#16, 0xFFFF#16),
        (0x5000#16, 0xFE00#16), (0x6000#16, 0xFFFF#16), (0x7000#16, 0xFFFF#16), (0x8000#16, 0xFF00#16),
        (0x9000#16, 0xFEFF#16), (0xA000#16, 0xFF00#16)], w &&& r.2 ≠ r.1) →
      RaisesIllegal w)

/-- The four cases of 30_encoding.md R83 are exactly the illegal words; an illegal word raises E_ILLEGAL and
changes nothing but ERR and ECODE; a REG_READ of a reserved number is a legal encoding that raises E_ILLEGAL
when it is executed. -/
def Obligations.IllegalEncodings : Prop :=
  (∀ w : Word,
    ((∃ i, decode w = .ok i) ↔
      ¬ (w.toNat / 4096 = 0 ∨ 11 ≤ w.toNat / 4096 ∨ w.toNat / 512 % 8 ≠ 0 ∨
        (w.toNat / 256 % 2 = 1 ∧ w.toNat / 4096 ∉ [1, 5, 9]) ∨
        (w.toNat % 256 ≠ 0 ∧ w.toNat / 4096 ∉ [2, 5, 8, 10]))) ∧
    ((¬ ∃ i, decode w = .ok i) → RaisesIllegal w)) ∧
  (∀ d : Byte, 0x0A ≤ d.toNat →
    decode (0xA0#8 ++ d) = .ok (.regRead d) ∧
      ∀ s, ∃ t, exec (.regRead d) s = .next t ∧ t.resps = s.resps ++ [.error .illegal])

/-- The words of the assembler table of 30_encoding.md R87, with the bytes 0x55, 0x06, 0xEA and the register
0x09, decode to the commands they stand for. -/
def Obligations.SampleWordsDecode : Prop :=
  decode 0x1000#16 = .ok (.demReset .bitlen2) ∧ decode 0x1100#16 = .ok (.demReset .bitlen4) ∧
    decode 0x2055#16 = .ok (.demFeed 0x55#8) ∧ decode 0x3000#16 = .ok .demFinish ∧
    decode 0x4000#16 = .ok .modBegin ∧ decode 0x50EA#16 = .ok (.modWord false 0xEA#8) ∧
    decode 0x5106#16 = .ok (.modWord true 0x06#8) ∧ decode 0x6000#16 = .ok .modEnd ∧
    decode 0x7000#16 = .ok .sslClear ∧ decode 0x8006#16 = .ok (.sslLoad 0x06#8) ∧
    decode 0x9000#16 = .ok (.sslLocate .fixed) ∧ decode 0x9100#16 = .ok (.sslLocate .lengthAware) ∧
    decode 0xA009#16 = .ok (.regRead 0x09#8)

/-- Every assembler line assembles to a word that decodes to the command the line stands for (30_encoding.md
R87). -/
def Obligations.AssembledLinesDecode : Prop := ∀ l : AsmLine, decode l.word = .ok l.instr

/-! ## The step, responses and errors -/

/-- A step takes the oldest command word and is `exec` of the command it decodes to, in the state with that word
taken off the queue (30_encoding.md R84, 20_memory.md R74). The queue is the model's own field (log entry 1).
With no command waiting, the block is idle and keeps all state, which is the model's reading of
60_exceptions.md R262 (log entry 4). -/
def Obligations.StepRunsDecodedCommand : Prop :=
  (∀ s w rest i, s.cmds = w :: rest → decode w = .ok i → step s = exec i { s with cmds := rest }) ∧
    (∀ s, s.cmds = [] → step s = .next s)

/-- "Each command produces exactly one response", placed before the next command is taken (30_encoding.md R85),
and its kind: ERROR, or the command's own kind (R82, column "response"). -/
def Obligations.OneResponsePerCommand : Prop :=
  (∀ s w rest, s.cmds = w :: rest →
    ∃ t r, step s = .next t ∧ t.cmds = rest ∧ t.resps = s.resps ++ [r]) ∧
  (∀ i s, ∃ t r, exec i s = .next t ∧ t.cmds = s.cmds ∧ t.resps = s.resps ++ [r] ∧
    ((∃ c, r = .error c) ∨
      match i with
      | .demReset _ => r = .ack
      | .demFeed _ => r = .ack
      | .demFinish => ∃ bs, r = .bytes bs
      | .modBegin => r = .ack
      | .modWord _ _ => ∃ lo hi, r = .bytes [lo, hi]
      | .modEnd => ∃ bs, r = .bytes bs ∧ bs.length ≤ 256
      | .sslClear => r = .ack
      | .sslLoad _ => r = .ack
      | .sslLocate _ => ∃ n m, r = .locate n m ∧ n.val ≤ 5
      | .regRead _ => ∃ v, r = .word v))

/-- The block error table of 60_exceptions.md R242: which command raises which code in which state, and the
codes' numbers. -/
def Obligations.ErrorTable : Prop :=
  (∀ i s,
    (RespondsError i s .illegal ↔ ∃ r : Byte, i = .regRead r ∧ 0x0A ≤ r.toNat) ∧
    (RespondsError i s .demNoInit ↔ ((∃ b, i = .demFeed b) ∨ i = .demFinish) ∧ s.dem.dinit = false) ∧
    (RespondsError i s .modSeq ↔ (i = .modBegin ∧ s.mod.mopen = true) ∨
      (((∃ f b, i = .modWord f b) ∨ i = .modEnd) ∧ s.mod.mopen = false)) ∧
    (RespondsError i s .sslFull ↔ (∃ b, i = .sslLoad b) ∧ s.ssl.lptr.val = 3125) ∧
    (RespondsError i s .sslNotLoaded ↔ (∃ la, i = .sslLocate la) ∧ s.ssl.lptr.val ≠ 3125)) ∧
  (∀ w, (¬ ∃ i, decode w = .ok i) → RaisesIllegal w) ∧
  ErrCode.illegal.code = 1#4 ∧ ErrCode.demNoInit.code = 2#4 ∧ ErrCode.modSeq.code = 3#4 ∧
    ErrCode.sslFull.code = 4#4 ∧ ErrCode.sslNotLoaded.code = 5#4

/-- A command that responds ERROR(code) changes nothing but ERR and ECODE, and those only if ERR was 0; the
block then takes the next command normally: it does to DEM, MOD and SSL what it would have done without the
error, with the same response unless it reads ESTAT (60_exceptions.md R241). -/
def Obligations.ErrorsChangeOnlyErrorState : Prop :=
  ∀ i s t c, exec i s = .next t → t.resps = s.resps ++ [.error c] →
    t = { s with
      errs := if s.errs.err = false then { err := true, ecode := c.code } else s.errs
      resps := s.resps ++ [.error c] } ∧
    ∀ w, ∃ u v, step { t with cmds := [w] } = .next u ∧ step { t with cmds := [w], errs := s.errs } = .next v ∧
      u.dem = v.dem ∧ u.mod = v.mod ∧ u.ssl = v.ssl ∧ (w ≠ 0xA009#16 → u.resps = v.resps)

/-- ERR is sticky and ECODE keeps the first error's code: no step clears either; a step with ERR = 0 sets ERR
exactly when its response is an error, with that error's code; ECODE stays 0 while ERR is 0; both are 0 at
power-on reset (10_state.md R38, R39). -/
def Obligations.FirstErrorIsKept : Prop :=
  (∀ s t, step s = .next t →
    (s.errs.err = true → t.errs = s.errs) ∧
    (s.errs.err = false →
      (t.errs.err = true ↔ ∃ c, t.resps = s.resps ++ [.error c]) ∧
      (∀ c, t.resps = s.resps ++ [.error c] → t.errs.ecode = c.code) ∧
      (s.errs.ecode = 0#4 → t.errs.err = false → t.errs.ecode = 0#4))) ∧
  State.reset.errs.err = false ∧ State.reset.errs.ecode = 0#4

/-- Every step from every state answers a next state: a command completes or raises a block error, and no data
value stops the block. That nothing ever stops it is the model's reading of 60_exceptions.md R240, R241 and R246
(log entry 18); that a step with no command waiting is idle and keeps all state is its reading of R262 (log entry
4). -/
def Obligations.BlockNeverStops : Prop := ∀ s, ∃ t, step s = .next t

/-- A command's effect and its response are a function of the block's record and the command word alone (10_state.md
R20, 70_reset_and_hazards.md R279): two machines with the same record do the same with the same oldest word,
whatever else waits and whatever was answered before. The two channels are the model's own fields (log entry 1). -/
def Obligations.BlockRecordDeterminesStep : Prop :=
  ∀ (s s' : State) (w : Word) (rest rest' : List Word), s.toBlock = s'.toBlock → s.cmds = w :: rest →
    s'.cmds = w :: rest' →
    ∃ t t' r, step s = .next t ∧ step s' = .next t' ∧ t.toBlock = t'.toBlock ∧ t.cmds = rest ∧ t'.cmds = rest' ∧
      t.resps = s.resps ++ [r] ∧ t'.resps = s'.resps ++ [r]

/-! ## Reset and the invariant -/

/-- The values of power-on reset that 70_reset_and_hazards.md R270 gives (it leaves TBUF unspecified), and that
no command has its effect on the error state. -/
def Obligations.PowerOnValues : Prop :=
  State.reset.dem.step = .one ∧ State.reset.dem.phase = .sync ∧ State.reset.dem.dacc = 0x00#8 ∧
    State.reset.dem.sacc = 0x00#8 ∧ State.reset.dem.bcnt = 0 ∧ State.reset.dem.obuf = [] ∧
    State.reset.dem.dinit = false ∧ State.reset.mod.mopen = false ∧ State.reset.mod.mocnt = 0 ∧
    State.reset.ssl.lptr = 0 ∧ State.reset.ssl.mask = 0#3125 ∧ State.reset.ssl.scount = 0 ∧
    State.reset.ssl.scur = 0#32 ∧ State.reset.ssl.sstrat = .fixed ∧ State.reset.ssl.sstop = .none ∧
    State.reset.ssl.rvalid = false ∧ State.reset.errs.err = false ∧ State.reset.errs.ecode = 0#4 ∧
    ∀ i s t, exec i s = .next t → s.errs.err = true → t.errs = s.errs

/-- Power-on reset meets the invariant. Its TBUF reads 0x00 throughout, which is the model's choice (log entry
3). -/
def Obligations.ResetMeetsInv : Prop := State.reset.Inv

/-- Every step keeps the invariant, from every state that meets it: OBUF within 3125 bytes; DEM as power-on left
it until the first DEM_RESET; MOCNT even; TBUF canonical; the result registers all 0 while RVALID is 0, and
exactly what LocateScan gives on TBUF while it is 1; ECODE 0 while ERR is 0 (10_state.md R26, R27, R37, R39,
R40, R41). -/
def Obligations.StepKeepsInv : Prop := ∀ s t, s.Inv → step s = .next t → t.Inv

/-- Under the invariant every register reads within its legal column, with the unlisted bits 0 (10_state.md R40,
R41). -/
def Obligations.RegistersReadLegalValues : Prop :=
  ∀ s, s.Inv →
    ∃ v : Nat → BitVec 32,
      (∀ k, k < 10 → exec (.regRead (BitVec.ofNat 8 k)) s =
        .next { s with resps := s.resps ++ [.word (v k)] }) ∧
      (v 0).toNat < 128 ∧ (v 0).getLsbD 3 = false ∧ (v 1).toNat < 256 ∧ (v 2).toNat < 256 ∧
      (v 3).toNat ≤ 3125 ∧ (v 4).toNat ≤ 1 ∧ ((v 5).toNat ≤ 256 ∧ (v 5).toNat % 2 = 0) ∧
      (v 6).toNat ≤ 3125 ∧ ((v 7).toNat < 256 ∧ (v 7).toNat / 2 % 8 ≤ 5) ∧ (v 8).toNat ≤ 68688 ∧
      ((v 9).toNat % 16 ≤ 1 ∧ (v 9).toNat / 16 ≤ 5)

/-! ## Demodulator -/

/-- DEM_RESET (40_demodulator.md R101): the state it leaves, whole, in every state; and its encoding. -/
def Obligations.DemResetResult : Prop :=
  (∀ rate s, exec (.demReset rate) s = .next
    { s with
      dem :=
        { step := if rate = .bitlen4 then .two else .one
          phase := .sync
          dacc := 0x00#8
          sacc := 0x00#8
          bcnt := 0
          obuf := []
          dinit := true }
      resps := s.resps ++ [.ack] }) ∧
  decode 0x1000#16 = .ok (.demReset .bitlen2) ∧ decode 0x1100#16 = .ok (.demReset .bitlen4) ∧
  (∀ w : Word, w.toNat / 4096 = 1 → w ≠ 0x1000#16 → w ≠ 0x1100#16 → RaisesIllegal w)

/-- DEM_FEED (40_demodulator.md R102): with DINIT = 1, CellStep on bits 0 … 7 of D at STEP 1, on bits 1, 3, 5, 7
at STEP 2, in that order, and nothing outside DEM changes; with DINIT = 0, E_DEM_NOINIT. Its encoding, and the
rule's example. -/
def Obligations.DemFeedResult : Prop :=
  (∀ (raw : Byte) s, s.dem.dinit = true → exec (.demFeed raw) s = .next
    { s with
      dem := (match s.dem.step with
        | .one => [raw.getLsbD 0, raw.getLsbD 1, raw.getLsbD 2, raw.getLsbD 3, raw.getLsbD 4, raw.getLsbD 5,
            raw.getLsbD 6, raw.getLsbD 7]
        | .two => [raw.getLsbD 1, raw.getLsbD 3, raw.getLsbD 5, raw.getLsbD 7]).foldl Dem.cellStep s.dem
      resps := s.resps ++ [.ack] }) ∧
  (∀ raw s, s.dem.dinit = false → exec (.demFeed raw) s = .next
    { s with
      errs := if s.errs.err then s.errs else { err := true, ecode := 2#4 }
      resps := s.resps ++ [.error .demNoInit] }) ∧
  (∀ raw : Byte, decode (0x20#8 ++ raw) = .ok (.demFeed raw)) ∧
  (∀ w : Word, w.toNat / 4096 = 2 → w.toNat / 256 ≠ 0x20 → RaisesIllegal w) ∧
  (∀ s, ∃ t u v, exec (.demReset .bitlen2) s = .next t ∧ exec (.demFeed 0x55#8) t = .next u ∧
    exec (.demFeed 0x6D#8) u = .next v ∧ v.dem.obuf = [0x06#8] ∧ v.dem.sacc = 0xFD#8 ∧ v.dem.dacc = 0x06#8 ∧
    v.dem.bcnt = 0 ∧ v.dem.phase = .sync)

/-- CellStep (40_demodulator.md R103), its five steps worked out as one expression per field: the appended
accumulators, the two resynchronisation cases, the emit and the toggle. -/
def Obligations.CellStepResult : Prop :=
  ∀ (d : Dem) (b : Bool),
    let bit : Byte := if b then 1#8 else 0#8
    let dacc : Byte := if d.phase = .data then (d.dacc <<< 1) ||| bit else d.dacc
    let sacc : Byte := if d.phase = .sync then (d.sacc <<< 1) ||| bit else d.sacc
    let caseA : Prop := d.phase = .data ∧ dacc = 0x06#8 ∧ sacc = 0xFD#8
    let caseB : Prop := d.phase = .sync ∧ sacc = 0x06#8 ∧ dacc = 0xFD#8
    let byteDone : Prop := caseA ∨ caseB ∨ (d.phase = .data ∧ d.bcnt.val + 1 = 8)
    (d.cellStep b).step = d.step ∧ (d.cellStep b).dinit = d.dinit ∧
    (caseB → (d.cellStep b).dacc = sacc ∧ (d.cellStep b).sacc = dacc ∧ (d.cellStep b).phase = .sync) ∧
    (¬ caseB → (d.cellStep b).dacc = dacc ∧ (d.cellStep b).sacc = sacc ∧
      (d.cellStep b).phase = if d.phase = .data then .sync else .data) ∧
    (byteDone → (d.cellStep b).bcnt = 0 ∧
      (d.obuf.length < 3125 → (d.cellStep b).obuf = d.obuf ++ [(d.cellStep b).dacc]) ∧
      (3125 ≤ d.obuf.length → (d.cellStep b).obuf = d.obuf)) ∧
    (¬ byteDone → (d.cellStep b).obuf = d.obuf ∧
      (d.cellStep b).bcnt.val = if d.phase = .data then d.bcnt.val + 1 else d.bcnt.val)

/-- Resynchronisation case (a) (40_demodulator.md R105): in the data phase, FD/06 emits the byte 0x06 at once,
whatever BCNT was, and the next byte starts on the following data cell. -/
def Obligations.DataPhaseResync : Prop :=
  ∀ (d : Dem) (b : Bool), d.phase = .data → shiftIn d.dacc b = 0x06#8 → d.sacc = 0xFD#8 →
    d.cellStep b = { d with
      phase := .sync
      dacc := 0x06#8
      bcnt := 0
      obuf := if d.obuf.length < 3125 then d.obuf ++ [0x06#8] else d.obuf }

/-- Resynchronisation case (b) (40_demodulator.md R106): in the sync phase, 06/FD swaps the accumulators, emits
0x06, and leaves PHASE = SYNC, so that the next cell is treated as a clock cell. -/
def Obligations.SyncPhaseResync : Prop :=
  ∀ (d : Dem) (b : Bool), d.phase = .sync → shiftIn d.sacc b = 0x06#8 → d.dacc = 0xFD#8 →
    d.cellStep b = { d with
      phase := .sync
      dacc := 0x06#8
      sacc := 0xFD#8
      bcnt := 0
      obuf := if d.obuf.length < 3125 then d.obuf ++ [0x06#8] else d.obuf }

/-- Emit (40_demodulator.md R107): at a count of 8 the data accumulator is appended while OBUF holds fewer than
3125 bytes and dropped otherwise, and BCNT is cleared either way; below 8 nothing is emitted. Emitting bytes
one by one keeps exactly the first 3125, which is what the source's truncation returns. -/
def Obligations.EmitKeepsFirstBytes : Prop :=
  (∀ (d : Dem) (b : Bool),
    ((d.cell b).count = 8 → (d.cellStep b).bcnt = 0 ∧ (d.cellStep b).obuf =
      if d.obuf.length < 3125 then d.obuf ++ [(d.cell b).dacc] else d.obuf) ∧
    ((d.cell b).count ≠ 8 → (d.cellStep b).bcnt.val = (d.cell b).count ∧ (d.cellStep b).obuf = d.obuf)) ∧
  (∀ vs : List Byte, vs.foldl emitByte [] = vs.take 3125)

/-- 40_demodulator.md R110: cases (a) and (b) never both fire at one cell, evaluating (b) before (a) gives the
same, and the count is at most 8 when the emit stage looks at it. -/
def Obligations.ResyncOrderIsIrrelevant : Prop :=
  ∀ (d : Dem) (b : Bool),
    ((d.cellRegs.append b).resyncSync).resyncData = d.cell b ∧ (d.cell b).count ≤ 8 ∧
    ((d.cellRegs.append b).resyncData ≠ d.cellRegs.append b →
      ((d.cellRegs.append b).resyncData).resyncSync = (d.cellRegs.append b).resyncData)

/-- DEM_FINISH (40_demodulator.md R108): with DINIT = 1 it responds OBUF padded with zero bytes to 3125 and
changes no other state; with DINIT = 0, E_DEM_NOINIT. Its encoding, the length of what it responds, and the
rule's example. -/
def Obligations.DemFinishResult : Prop :=
  (∀ s, s.dem.dinit = true → exec .demFinish s = .next
    { s with
      resps := s.resps ++ [.bytes (s.dem.obuf ++ List.replicate (3125 - s.dem.obuf.length) 0x00#8)] }) ∧
  (∀ s, s.dem.dinit = false → exec .demFinish s = .next
    { s with
      errs := if s.errs.err then s.errs else { err := true, ecode := 2#4 }
      resps := s.resps ++ [.error .demNoInit] }) ∧
  (∀ s : State, s.dem.obuf.length ≤ 3125 →
    (s.dem.obuf ++ List.replicate (3125 - s.dem.obuf.length) 0x00#8).length = 3125) ∧
  (∀ b, ∃ t, hostRun b [.demReset .bitlen2, .demFeed 0x55#8, .demFeed 0x6D#8, .demFinish] =
    .ok (t, [.ack, .ack, .ack, .bytes (0x06#8 :: List.replicate 3124 0x00#8)])) ∧
  decode 0x3000#16 = .ok .demFinish ∧
  (∀ w : Word, w.toNat / 4096 = 3 → w ≠ 0x3000#16 → RaisesIllegal w)

/-- `reset(); feed(X); finish()` yields the same 3125 bytes on any two blocks, whatever came before on each
(20_memory.md R71). -/
def Obligations.DecodeIsRepeatable : Prop :=
  ∀ (b b' : State) rate raw, ∃ t t' out,
    runDecode b rate raw = .ok (t, out) ∧ runDecode b' rate raw = .ok (t', out) ∧ out.length = 3125 ∧
      t.dem = t'.dem

/-- The aligned round trip (40_demodulator.md R112): a demodulator reset at STEP 1 and fed the bytes MOD produces
for any data bytes with any sync flags holds those data bytes, up to the first 3125. -/
def Obligations.AlignedRoundTrip : Prop :=
  ∀ (b : State) (pairs : List (Byte × Bool)), ∃ t out,
    runDecode b .bitlen2 (pairs.flatMap (fun p => wordBytes (fmWord p.1 p.2))) = .ok (t, out) ∧
      t.dem.obuf = (pairs.map Prod.fst).take 3125

/-- The pad bytes decode to zero bytes (40_demodulator.md R113): a whole block of at most 128 bytes, as MOD
encodes and pads it, decodes to the data followed by zero bytes up to 128. -/
def Obligations.PadDecodesToZeros : Prop :=
  fmWord 0x00#8 false = 0x5555#16 ∧
  ∀ (a b : State) (pairs : List (Byte × Bool)), a.mod.mopen = false → pairs.length ≤ 128 →
    ∃ a' bytes t out, runEncodeBlock a pairs = .ok (a', bytes) ∧ runDecode b .bitlen2 bytes = .ok (t, out) ∧
      t.dem.obuf = pairs.map Prod.fst ++ List.replicate (128 - pairs.length) 0x00#8

/-- STEP 2 equivalence (40_demodulator.md R115): a BITLEN 4 stream whose bit 2j+1 equals cell j of a BITLEN 2
stream decodes to the same OBUF, whatever its bits 2j are. -/
def Obligations.DoubleRateEquivalence : Prop :=
  ∀ (b b' : State) (raw2 raw4 : List Byte), raw4.length = 2 * raw2.length →
    (∀ j, j < 8 * raw2.length →
      (raw4.getD (j / 4) 0#8).getLsbD (2 * (j % 4) + 1) = (raw2.getD (j / 8) 0#8).getLsbD (j % 8)) →
    ∃ t t' out, runDecode b .bitlen2 raw2 = .ok (t, out) ∧ runDecode b' .bitlen4 raw4 = .ok (t', out) ∧
      t.dem.obuf = t'.dem.obuf

/-! ## Modulator -/

/-- FmWord (41_modulator.md R132): the closed form of the plain word, and the mask of the flagged one. -/
def Obligations.FmWordClosedForm : Prop :=
  ∀ d : Byte,
    (fmWord d false).toNat =
      ((List.range 8).map (fun i => (2 * (d.getLsbD i).toNat + 1) * 2 ^ (14 - 2 * i))).sum ∧
    fmWord d true = fmWord d false &&& 0xEFFF#16

/-- Clock suppression (41_modulator.md R136) and the cells of the FM word (30_encoding.md R89): bit 2k+1 is data
cell d(7−k); bit 2k is the clock cell, 1 but for bit 12 of a flagged word; so a flagged word is the plain one
less 0x1000. -/
def Obligations.ClockSuppression : Prop :=
  ∀ (d : Byte),
    fmWord d true = fmWord d false - 0x1000#16 ∧
    ∀ (sync : Bool) (k : Nat), k < 8 →
      (fmWord d sync).getLsbD (2 * k + 1) = d.getLsbD (7 - k) ∧
      (fmWord d sync).getLsbD (2 * k) = !(sync && k == 6)

/-- MOD_BEGIN (41_modulator.md R131): opens a block, or raises E_MOD_SEQ when one is open; its encoding. -/
def Obligations.ModBeginResult : Prop :=
  (∀ s, s.mod.mopen = false → exec .modBegin s = .next
    { s with mod := { mopen := true, mocnt := 0 }, resps := s.resps ++ [.ack] }) ∧
  (∀ s, s.mod.mopen = true → exec .modBegin s = .next
    { s with
      errs := if s.errs.err then s.errs else { err := true, ecode := 3#4 }
      resps := s.resps ++ [.error .modSeq] }) ∧
  State.reset.mod.mopen = false ∧
  decode 0x4000#16 = .ok .modBegin ∧
  (∀ w : Word, w.toNat / 4096 = 4 → w ≠ 0x4000#16 → RaisesIllegal w)

/-- MOD_WORD (41_modulator.md R133): with a block open it responds the FM word, low byte first, and adds 2 to
MOCNT up to 256; otherwise E_MOD_SEQ. Its encoding, and the rule's values. -/
def Obligations.ModWordResult : Prop :=
  (∀ (sync : Bool) (d : Byte) s, s.mod.mopen = true → ∃ t, exec (.modWord sync d) s = .next t ∧
    t.mod.mopen = true ∧ t.mod.mocnt.val = min 256 (s.mod.mocnt.val + 2) ∧
    t.resps = s.resps ++ [.bytes [(fmWord d sync).setWidth 8, (fmWord d sync >>> 8).setWidth 8]] ∧
    t.dem = s.dem ∧ t.ssl = s.ssl ∧ t.errs = s.errs ∧ t.cmds = s.cmds) ∧
  (∀ sync d s, s.mod.mopen = false → exec (.modWord sync d) s = .next
    { s with
      errs := if s.errs.err then s.errs else { err := true, ecode := 3#4 }
      resps := s.resps ++ [.error .modSeq] }) ∧
  (∀ d : Byte, decode (0x50#8 ++ d) = .ok (.modWord false d) ∧ decode (0x51#8 ++ d) = .ok (.modWord true d)) ∧
  (∀ w : Word, w.toNat / 4096 = 5 → w.toNat / 512 % 8 ≠ 0 → RaisesIllegal w) ∧
  fmWord 0x00#8 false = 0x5555#16 ∧ fmWord 0xFF#8 false = 0xFFFF#16 ∧ fmWord 0xFF#8 true = 0xEFFF#16 ∧
  fmWord 0x06#8 true = 0x6D55#16 ∧ fmWord 0x06#8 false = 0x7D55#16

/-- MOD_END (41_modulator.md R134): closes the block, keeps MOCNT, and responds 256 − MOCNT bytes of 0x55;
E_MOD_SEQ with no block open; its encoding, and the rule's example. -/
def Obligations.ModEndResult : Prop :=
  (∀ s, s.mod.mopen = true → exec .modEnd s = .next
    { s with
      mod := { mopen := false, mocnt := s.mod.mocnt }
      resps := s.resps ++ [.bytes (List.replicate (256 - s.mod.mocnt.val) 0x55#8)] }) ∧
  (∀ s, s.mod.mopen = false → exec .modEnd s = .next
    { s with
      errs := if s.errs.err then s.errs else { err := true, ecode := 3#4 }
      resps := s.resps ++ [.error .modSeq] }) ∧
  (∀ b : State, b.mod.mopen = false → ∃ t, hostRun b [.modBegin, .modWord false 0x00#8, .modEnd] =
    .ok (t, [.ack, .bytes [0x55#8, 0x55#8], .bytes (List.replicate 254 0x55#8)])) ∧
  decode 0x6000#16 = .ok .modEnd ∧
  (∀ w : Word, w.toNat / 4096 = 6 → w ≠ 0x6000#16 → RaisesIllegal w)

/-- MOCNT (10_state.md R29): after MOD_BEGIN and n MOD_WORDs it is min(256, 2n), and MOD_END then pads with
256 − MOCNT bytes of FILL. -/
def Obligations.MocntCountsWords : Prop :=
  ∀ (b : State) (pairs : List (Byte × Bool)), b.mod.mopen = false →
    ∃ t rs, hostRun b (.modBegin :: pairs.map (fun p => Instr.modWord p.2 p.1)) = .ok (t, rs) ∧
      t.mod.mocnt.val = min 256 (2 * pairs.length) ∧
      ∃ u, hostIssue t .modEnd = .ok (u, .bytes (List.replicate (256 - t.mod.mocnt.val) 0x55#8))

/-- `encodeBlock` (41_modulator.md R135): issued with no block open, it responds the FM words in order, low byte
first, then the pad, max(256, 2n) bytes in all. -/
def Obligations.EncodeBlockResult : Prop :=
  ∀ (b : State) (pairs : List (Byte × Bool)), b.mod.mopen = false →
    ∃ t bytes, runEncodeBlock b pairs = .ok (t, bytes) ∧ t.mod.mopen = false ∧
      bytes = pairs.flatMap (fun p => [(fmWord p.1 p.2).setWidth 8, (fmWord p.1 p.2 >>> 8).setWidth 8]) ++
        List.replicate (256 - 2 * pairs.length) 0x55#8 ∧
      bytes.length = max 256 (2 * pairs.length)

/-! ## Sector locator -/

/-- FindPat (42_sector_locator.md R151): for a pattern of 2 or 3 bytes it answers the least offset whose
occurrence lies wholly in the window `T[c .. min(c + W, 3125))`, and NONE exactly when there is no occurrence
there; the window is empty when c ≥ 3125. -/
def Obligations.FindPatFirstInWindow : Prop :=
  ∀ (t : Memory) (c w : Nat) (pat : List Byte), pat.length = 2 ∨ pat.length = 3 →
    (∀ p, findPat t c w pat = some p ↔
      (c + p + pat.length ≤ min (c + w) 3125 ∧ (∀ i, i < pat.length → t.read (c + p + i) = pat.getD i 0#8)) ∧
      (∀ q, q < p → ∃ i, i < pat.length ∧ t.read (c + q + i) ≠ pat.getD i 0#8)) ∧
    (findPat t c w pat = none ↔
      ∀ p, c + p + pat.length ≤ min (c + w) 3125 → ∃ i, i < pat.length ∧ t.read (c + p + i) ≠ pat.getD i 0#8) ∧
    (3125 ≤ c → findPat t c w pat = none)

/-- MarkRun (42_sector_locator.md R154): it marks index s and every following 0x06 byte up to the first other
byte or the side's end, marks nothing else, and returns the index just past the run. -/
def Obligations.MarkRunMarksTheRun : Prop :=
  ∀ (t : Memory) (m : Mask) (s : Nat), s < 3125 →
    s < (markRun t m s).2 ∧ (markRun t m s).2 ≤ 3125 ∧
    (∀ i, s < i → i < (markRun t m s).2 → t.read i = 0x06#8) ∧
    ((markRun t m s).2 < 3125 → t.read (markRun t m s).2 ≠ 0x06#8) ∧
    ∀ i, (markRun t m s).1.getLsbD i = (m.getLsbD i || (decide (s ≤ i) && decide (i < (markRun t m s).2)))

/-- LocateScan is the scan of 42_sector_locator.md R155: it ends in a result exactly when the rules' case by case
description does, from an empty mask, count 0 and cursor 0. -/
def Obligations.ScanFollowsRules : Prop :=
  ∀ (t : Memory) (la : Strategy) (r : Scan), locateScan t la = r ↔ ScanRuns t la 0#3125 0 0 r

/-- A scan finds at most 5 sectors and leaves a cursor of at most 3123 + 65535 + 30 = 68688 (42_sector_locator.md
R161, R163; 10_state.md R34). -/
def Obligations.ScanBounds : Prop :=
  ∀ (t : Memory) (la : Strategy), (locateScan t la).count ≤ 5 ∧ (locateScan t la).cursor ≤ 68688

/-- Only bytes of 0x06 runs are marked (42_sector_locator.md R157): every marked index is inside the side, holds
0x06, and lies in a run that begins with 06 06 06 at a marked index. -/
def Obligations.OnlyRunBytesMarked : Prop :=
  ∀ (t : Memory) (la : Strategy) (i : Nat), (locateScan t la).mask.getLsbD i = true →
    i < 3125 ∧ t.read i = 0x06#8 ∧
    ∃ s, s ≤ i ∧ (∀ j, s ≤ j → j ≤ i → t.read j = 0x06#8 ∧ (locateScan t la).mask.getLsbD j = true) ∧
      t.read s = 0x06#8 ∧ t.read (s + 1) = 0x06#8 ∧ t.read (s + 2) = 0x06#8

/-- The length field (20_memory.md R65): `TBUF[c] | (TBUF[c+1] << 8)`, a 16-bit unsigned number. -/
def Obligations.LengthFieldLittleEndian : Prop :=
  ∀ (t : Memory) (c : Nat),
    lengthField t c = ((t.read c).setWidth 16 ||| ((t.read (c + 1)).setWidth 16 <<< 8)).toNat

/-- SSL_CLEAR (42_sector_locator.md R152): clears LPTR, MASK and the results, keeps TBUF, touches nothing else;
its encoding. -/
def Obligations.SslClearResult : Prop :=
  (∀ s, exec .sslClear s = .next
    { s with
      ssl :=
        { tbuf := s.ssl.tbuf
          lptr := 0
          mask := 0#3125
          scount := 0
          scur := 0#32
          sstrat := .fixed
          sstop := .none
          rvalid := false }
      resps := s.resps ++ [.ack] }) ∧
  decode 0x7000#16 = .ok .sslClear ∧
  (∀ w : Word, w.toNat / 4096 = 7 → w ≠ 0x7000#16 → RaisesIllegal w)

/-- SSL_LOAD (42_sector_locator.md R153): below LPTR = 3125 it writes D at TBUF[LPTR] and no other byte, advances
LPTR by 1 and changes nothing else; at 3125, E_SSL_FULL. Its encoding. TBUF is canonical in every state the
invariant allows (StepKeepsInv). -/
def Obligations.SslLoadResult : Prop :=
  (∀ (d : Byte) s, s.ssl.tbuf.wf → s.ssl.lptr.val < 3125 → ∃ t, exec (.sslLoad d) s = .next t ∧
    t.ssl.lptr.val = s.ssl.lptr.val + 1 ∧ t.ssl.tbuf.wf ∧
    (∀ a, t.ssl.tbuf.read a = if a = s.ssl.lptr.val then d else s.ssl.tbuf.read a) ∧
    t = { s with
      ssl := { s.ssl with tbuf := t.ssl.tbuf, lptr := t.ssl.lptr }
      resps := s.resps ++ [.ack] }) ∧
  (∀ d s, s.ssl.lptr.val = 3125 → exec (.sslLoad d) s = .next
    { s with
      errs := if s.errs.err then s.errs else { err := true, ecode := 4#4 }
      resps := s.resps ++ [.error .sslFull] }) ∧
  (∀ d : Byte, decode (0x80#8 ++ d) = .ok (.sslLoad d)) ∧
  (∀ w : Word, w.toNat / 4096 = 8 → w.toNat / 256 ≠ 0x80 → RaisesIllegal w)

/-- SSL_LOCATE (42_sector_locator.md R156): with LPTR = 3125 it stores the scan's results, sets RVALID and
responds LOCATE(count, mask), keeping TBUF, LPTR and everything outside SSL; otherwise E_SSL_NOTLOADED. The
rule's two corner cases, its example (the runs of V1), and its encoding. -/
def Obligations.SslLocateResult : Prop :=
  (∀ la s, s.ssl.lptr.val = 3125 → ∃ t n, exec (.sslLocate la) s = .next t ∧
    n.val = (locateScan s.ssl.tbuf la).count ∧
    t = { s with
      ssl :=
        { s.ssl with
          mask := (locateScan s.ssl.tbuf la).mask
          scount := n
          scur := BitVec.ofNat 32 (locateScan s.ssl.tbuf la).cursor
          sstrat := la
          sstop := (locateScan s.ssl.tbuf la).stop
          rvalid := true }
      resps := s.resps ++ [.locate n (locateScan s.ssl.tbuf la).mask] }) ∧
  (∀ la s, s.ssl.lptr.val ≠ 3125 → exec (.sslLocate la) s = .next
    { s with
      errs := if s.errs.err then s.errs else { err := true, ecode := 5#4 }
      resps := s.resps ++ [.error .sslNotLoaded] }) ∧
  (∀ m la, (∀ i, i < 3125 → m.read i = 0x00#8) →
    locateScan m la = { mask := 0#3125, count := 0, cursor := 0, stop := .noRun1 }) ∧
  (∀ m la, (∀ i, i < 3125 → m.read i = 0x06#8) →
    locateScan m la = { mask := BitVec.allOnes 3125, count := 0, cursor := 3125, stop := .noMarkA }) ∧
  (∀ m, (∀ i, i < 3125 → m.read i = trackV1.getD i 0#8) →
    (locateScan m .fixed).count = 5 ∧ (locateScan m .fixed).stop = .done ∧
    ∀ i, (locateScan m .fixed).mask.getLsbD i = decide (i < 2288 ∧ ((10 ≤ i % 564 ∧ i % 564 ≤ 15) ∨ (26 ≤ i % 564 ∧ i % 564 ≤ 31)))) ∧
  decode 0x9000#16 = .ok (.sslLocate .fixed) ∧ decode 0x9100#16 = .ok (.sslLocate .lengthAware) ∧
  (∀ w : Word, w.toNat / 4096 = 9 → w ≠ 0x9000#16 → w ≠ 0x9100#16 → RaisesIllegal w)

/-- `locate(trackSideBytes, lengthAware)` (42_sector_locator.md R164): loading a track-side and locating responds
the count and the mask of LocateScan on exactly those bytes. -/
def Obligations.LocateContract : Prop :=
  ∀ (b : State) (track : List Byte) (la : Strategy), b.ssl.tbuf.wf → track.length = 3125 →
    ∃ t rs m n, hostRun b (sslFill track ++ [.sslLocate la]) = .ok (t, rs) ∧
      Memory.wf m ∧ (∀ i, i < 3125 → m.read i = track.getD i 0#8) ∧ n.val = (locateScan m la).count ∧
      rs.getLast? = some (.locate n (locateScan m la).mask)

/-- A step does not show TBUF bytes that have not been loaded since SSL_CLEAR: two states that differ only there
step to states that differ only there, with the same responses (10_state.md R47). -/
def Obligations.StepHidesUnloadedTbuf : Prop :=
  ∀ s t s', SameButUnloaded s t → s.ssl.tbuf.wf → t.ssl.tbuf.wf → step s = .next s' →
    ∃ t', step t = .next t' ∧ SameButUnloaded s' t' ∧ s'.ssl.tbuf.wf ∧ t'.ssl.tbuf.wf

/-- TBUF after power-on is never observed (70_reset_and_hazards.md R273): no reset clears it, and whatever it
holds at power-on, every sequence of commands gets the same responses. -/
def Obligations.PowerOnTbufIsUnobservable : Prop :=
  (∀ rate s t, exec (.demReset rate) s = .next t → t.ssl.tbuf = s.ssl.tbuf) ∧
  (∀ s t, exec .modBegin s = .next t → t.ssl.tbuf = s.ssl.tbuf) ∧
  (∀ s t, exec .sslClear s = .next t → t.ssl.tbuf = s.ssl.tbuf) ∧
  ∀ (m : Memory) (is : List Instr), Memory.wf m →
    transcript { State.reset with ssl := { State.reset.ssl with tbuf := m } } is = transcript State.reset is

/-! ## Register read -/

/-- REG_READ (44_register_read.md R230): each register's value, field by field as a number, with no state
changed; E_ILLEGAL for the reserved numbers; its encoding, and the rule's example. -/
def Obligations.RegReadResult : Prop :=
  (∀ s : State, ∀ p ∈ ([(0, 16 * s.dem.bcnt.val + 4 * (if s.dem.step = .two then 1 else 0) +
            2 * (if s.dem.phase = .data then 1 else 0) + (if s.dem.dinit then 1 else 0)),
        (1, s.dem.dacc.toNat), (2, s.dem.sacc.toNat), (3, s.dem.obuf.length),
        (4, if s.mod.mopen then 1 else 0), (5, s.mod.mocnt.val), (6, s.ssl.lptr.val),
        (7, 32 * (match s.ssl.sstop with
            | .none => 0
            | .done => 1
            | .bound => 2
            | .noRun1 => 3
            | .noMarkA => 4
            | .noRun2 => 5
            | .noMarkB => 6
            | .lenOob => 7) + 16 * (if s.ssl.sstrat = .lengthAware then 1 else 0) +
            2 * s.ssl.scount.val + (if s.ssl.rvalid then 1 else 0)),
        (8, s.ssl.scur.toNat), (9, 16 * s.errs.ecode.toNat + (if s.errs.err then 1 else 0))] : List (Nat × Nat)),
    exec (.regRead (BitVec.ofNat 8 p.1)) s = .next
      { s with resps := s.resps ++ [.word (BitVec.ofNat 32 p.2)] }) ∧
  (∀ (r : Byte) s, 0x0A ≤ r.toNat → exec (.regRead r) s = .next
    { s with
      errs := if s.errs.err then s.errs else { err := true, ecode := 1#4 }
      resps := s.resps ++ [.error .illegal] }) ∧
  (∀ b, ∃ t, hostRun b [.demReset .bitlen2, .demFeed 0x55#8, .regRead 0x00#8] =
    .ok (t, [.ack, .ack, .word 0x00000041#32])) ∧
  (∀ r : Byte, decode (0xA0#8 ++ r) = .ok (.regRead r)) ∧
  (∀ w : Word, w.toNat / 4096 = 10 → w.toNat / 256 ≠ 0xA0 → RaisesIllegal w)

/-! ## Units -/

/-- The units share no state (40_demodulator.md R100, 41_modulator.md R130, 42_sector_locator.md R150): a command
of DEM, MOD or SSL writes no other unit's state, nor the error state unless it responds an error; and what it
leaves in its own unit, and its response, depend on its own unit's state alone. -/
def Obligations.UnitsShareNoState : Prop :=
  ∀ (i : Instr) (s t : State), unitOf i ≠ .reg → exec i s = .next t →
    (unitOf i ≠ .dem → t.dem = s.dem) ∧ (unitOf i ≠ .mod → t.mod = s.mod) ∧ (unitOf i ≠ .ssl → t.ssl = s.ssl) ∧
    ((¬ ∃ c, t.resps = s.resps ++ [.error c]) → t.errs = s.errs) ∧
    ∀ s', AgreeOn (unitOf i) s s' → ∃ t' r, exec i s' = .next t' ∧ AgreeOn (unitOf i) t t' ∧
      t.resps = s.resps ++ [r] ∧ t'.resps = s'.resps ++ [r]

/-- Commands of different units may be interleaved in any way (70_reset_and_hazards.md R277): the responses of
one unit's commands in any sequence are those of that unit's commands issued alone. -/
def Obligations.UnitsInterleaveFreely : Prop :=
  ∀ (u : BlockUnit) (s : State) (is : List Instr), u ≠ .reg →
    (transcript s is).filter (fun e => unitOf e.1 = u) = transcript s (is.filter (fun i => unitOf i = u))

/-! ## Host use of the block -/

/-- The host never makes the block respond ERROR (43_host_interface.md R191): a whole run, in either direction,
on a block with no MOD block open, never ends in BlockFault. -/
def Obligations.HostNeverFaultsBlock : Prop :=
  ∀ (p : HostParams) (src : List Byte) (b : State), b.mod.mopen = false →
    (convert p src b).result ≠ .hard .blockFault

/-- HfeRawOffset (43_host_interface.md R202): the formula, and the twelve rows of the rule's table. -/
def Obligations.RawOffsetFormula : Prop :=
  (∀ rate off side pos, hfeRawOffset rate off side pos =
    512 * off + (pos * (if rate = .bitlen2 then 2 else 4)) / 256 * 512 + (1 - side) * 256 +
      (pos * (if rate = .bitlen2 then 2 else 4)) % 256) ∧
  ∀ e ∈ ([(.bitlen2, 1, 0, 0, 1), (.bitlen2, 0, 0, 256, 257), (.bitlen2, 0, 127, 510, 511),
      (.bitlen2, 0, 128, 768, 769), (.bitlen2, 1, 128, 512, 513), (.bitlen2, 1, 3124, 12392, 12393),
      (.bitlen2, 0, 3124, 12648, 12649), (.bitlen4, 1, 0, 0, 3), (.bitlen4, 0, 0, 256, 259),
      (.bitlen4, 0, 127, 1020, 1023), (.bitlen4, 1, 3124, 24784, 24787), (.bitlen4, 0, 3124, 25040, 25043)] :
      List (Rate × Nat × Nat × Nat × Nat)),
    hfeRawOffset e.1 0 e.2.1 e.2.2.1 = e.2.2.2.1 ∧ e.2.2.2.1 + (bitLenOfRate e.1 - 1) = e.2.2.2.2

/-- Side inversion (43_host_interface.md R203): every raw byte of side 1 lies in the first 256-byte half of a
512-byte block of the track, every raw byte of side 0 in the second half; and the host writes each block as side
1's encoded chunk, 256 bytes, then side 0's. -/
def Obligations.SideInversion : Prop :=
  (∀ (rate : Rate) (off side pos j : Nat), side ≤ 1 → j < bitLenOfRate rate →
    (hfeRawOffset rate off side pos + j) % 512 / 256 = 1 - side) ∧
  (∀ (b : State) (t1 t0 : List Byte) (m1 m0 : Mask) (k : Nat), b.mod.mopen = false →
    ∃ b₁ b₂ side1 side0, runEncodeBlock b (chunkPairs t1 m1 k) = .ok (b₁, side1) ∧
      runEncodeBlock b₁ (chunkPairs t0 m0 k) = .ok (b₂, side0) ∧
      encodeChunks t1 t0 m1 m0 b [k] = .ok (b₂, side1 ++ side0) ∧ side1.length = 256 ∧ side0.length = 256)

/-- Validation of an HFE source (43_host_interface.md R204): the checks in their order, the first that fails
naming the error, and a failed check ending the run with nothing written. -/
def Obligations.ValidationOrder : Prop :=
  ∀ (oob : OobRead) (src : List Byte),
    let sigOk : Prop := 512 ≤ src.length ∧ src.take 8 = hfeSignature
    let revOk : Prop := src.getD 8 0#8 = 0#8
    let geoOk : Prop := src.getD 9 0#8 = 80#8 ∧ src.getD 10 0#8 = 2#8
    let kbps : Nat := (src.getD 12 0#8).toNat + 256 * (src.getD 13 0#8).toNat
    let lo : Nat := (src.getD 18 0#8).toNat + 256 * (src.getD 19 0#8).toNat
    let lenOk : Nat → Nat → Prop := fun bitLen t => ∃ len, trackLen oob src lo t = .ok len ∧ 6250 * bitLen ≤ len
    (¬ sigOk → validateHfe oob src = .error .invalidSignature) ∧
    (sigOk → ¬ revOk → validateHfe oob src = .error .unsupportedRevision) ∧
    (sigOk → revOk → ¬ geoOk → validateHfe oob src = .error .unsupportedGeometry) ∧
    (sigOk → revOk → geoOk → kbps ≠ 125 → kbps ≠ 250 → validateHfe oob src = .error .unsupportedBitrate) ∧
    (∀ bitLen rate, (bitLen = 2 ∧ kbps = 125 ∧ rate = .bitlen2) ∨ (bitLen = 4 ∧ kbps = 250 ∧ rate = .bitlen4) →
      sigOk → revOk → geoOk →
      (∀ t len, t < 80 → (∀ t', t' < t → lenOk bitLen t') → trackLen oob src lo t = .ok len →
        len < 6250 * bitLen → validateHfe oob src = .error .malformedTrack) ∧
      ((∀ t, t < 80 → lenOk bitLen t) → validateHfe oob src = .ok (rate, lo))) ∧
    (∀ p b e, p.direction = .hfeToRdi → p.oobRead = oob → validateHfe oob src = .error e →
      convert p src b = { result := .hard e, dest := [] })

/-- ChooseMask (43_host_interface.md R197): the fixed strategy's mask when it finds exactly 5 sectors, else the
length-aware one's, with a warning exactly when neither finds 5; both scans are of the given bytes. -/
def Obligations.ChooseMaskPolicy : Prop :=
  ∀ (b : State) (track : List Byte), b.ssl.tbuf.wf → track.length = 3125 →
    ∃ c m, chooseMask b track = .ok c ∧ Memory.wf m ∧ (∀ i, i < 3125 → m.read i = track.getD i 0#8) ∧
      ((locateScan m .fixed).count = 5 → c.mask = (locateScan m .fixed).mask ∧ c.warning = false) ∧
      ((locateScan m .fixed).count ≠ 5 → c.mask = (locateScan m .lengthAware).mask ∧
        (c.warning = true ↔ (locateScan m .lengthAware).count ≠ 5))

/-- A hard failure leaves nothing written (43_host_interface.md R212, 60_exceptions.md R256). -/
def Obligations.HardFailureWritesNothing : Prop :=
  ∀ (p : HostParams) (src : List Byte) (b : State) (e : HostError),
    (convert p src b).result = .hard e → (convert p src b).dest = []

/-- Sizes (43_host_interface.md R210): an HFE image that the host writes from an RDI image of 500000 bytes is 2002
blocks of 512 bytes, 1025024 bytes; an RDI image that it writes from an HFE source is 500000 bytes. On an HFE
source that passes validation, whatever HOST_OOB_READ is, a run is a clean success that writes such an image (R216,
60_exceptions.md R258), unless HOST_OOB_READ is FAULT and the run fails with SourceTruncated (R250); and it does
not fail so when the source holds every raw byte that is read (R208). That a run which reads past the source under
FAULT is no clean success although R258 says "every" is the model's reading (log entry 17). -/
def Obligations.ImageSizes : Prop :=
  (∀ (p : HostParams) (src : List Byte) (b : State), p.direction = .rdiToHfe → src.length = 500000 →
    b.mod.mopen = false →
    (convert p src b).dest.length = 2002 * 512 ∧ (convert p src b).dest.length = 1025024) ∧
  (∀ (p : HostParams) (src : List Byte) (b : State) (rate : Rate) (lo : Nat), p.direction = .hfeToRdi →
    validateHfe p.oobRead src = .ok (rate, lo) →
    (((convert p src b).result = .clean ∧ (convert p src b).dest.length = 500000) ∨
      (p.oobRead = .fault ∧ (convert p src b).result = .hard .sourceTruncated)) ∧
    ((∀ t off, t < 80 → trackBlock p.oobRead src lo t = .ok off →
        512 * off + (if rate = .bitlen2 then 12650 else 25044) ≤ src.length) →
      (convert p src b).result = .clean ∧ (convert p src b).dest.length = 500000))

/-- The system round trip (43_host_interface.md R209): converting an RDI image to HFE and that HFE image back
reproduces the RDI image exactly, for any data, whatever masks the locator chooses and whatever warnings it
gives. -/
def Obligations.SystemRoundTrip : Prop :=
  ∀ (p p' : HostParams) (src : List Byte) (b b' : State), p.direction = .rdiToHfe → p'.direction = .hfeToRdi →
    src.length = 500000 → b.mod.mopen = false →
    (∀ e, (convert p src b).result ≠ .hard e) ∧
      convert p' (convert p src b).dest b' = { result := .clean, dest := src }
end

