-- ==== Sys2Proof/Laws/State.lean ====
section
/-! SUPPORT. One lemma per field per named update of the state, the ranges of the counters, and the block record
that each update leaves. -/

namespace Sys2Proof.Machine

open Sys2Proof

variable (s : State) (d : Dem) (m : Mod) (l : Ssl) (r : Response) (c : ErrCode) (w : Word)

@[simp] theorem State.setDem_dem : (s.setDem d).dem = d := rfl
@[simp] theorem State.setDem_mod : (s.setDem d).mod = s.mod := rfl
@[simp] theorem State.setDem_ssl : (s.setDem d).ssl = s.ssl := rfl
@[simp] theorem State.setDem_errs : (s.setDem d).errs = s.errs := rfl
@[simp] theorem State.setDem_cmds : (s.setDem d).cmds = s.cmds := rfl
@[simp] theorem State.setDem_resps : (s.setDem d).resps = s.resps := rfl

@[simp] theorem State.setMod_dem : (s.setMod m).dem = s.dem := rfl
@[simp] theorem State.setMod_mod : (s.setMod m).mod = m := rfl
@[simp] theorem State.setMod_ssl : (s.setMod m).ssl = s.ssl := rfl
@[simp] theorem State.setMod_errs : (s.setMod m).errs = s.errs := rfl
@[simp] theorem State.setMod_cmds : (s.setMod m).cmds = s.cmds := rfl
@[simp] theorem State.setMod_resps : (s.setMod m).resps = s.resps := rfl

@[simp] theorem State.setSsl_dem : (s.setSsl l).dem = s.dem := rfl
@[simp] theorem State.setSsl_mod : (s.setSsl l).mod = s.mod := rfl
@[simp] theorem State.setSsl_ssl : (s.setSsl l).ssl = l := rfl
@[simp] theorem State.setSsl_errs : (s.setSsl l).errs = s.errs := rfl
@[simp] theorem State.setSsl_cmds : (s.setSsl l).cmds = s.cmds := rfl
@[simp] theorem State.setSsl_resps : (s.setSsl l).resps = s.resps := rfl

@[simp] theorem State.respond_dem : (s.respond r).dem = s.dem := rfl
@[simp] theorem State.respond_mod : (s.respond r).mod = s.mod := rfl
@[simp] theorem State.respond_ssl : (s.respond r).ssl = s.ssl := rfl
@[simp] theorem State.respond_errs : (s.respond r).errs = s.errs := rfl
@[simp] theorem State.respond_cmds : (s.respond r).cmds = s.cmds := rfl
@[simp] theorem State.respond_resps : (s.respond r).resps = s.resps ++ [r] := rfl

@[simp] theorem State.raise_dem : (s.raise c).dem = s.dem := rfl
@[simp] theorem State.raise_mod : (s.raise c).mod = s.mod := rfl
@[simp] theorem State.raise_ssl : (s.raise c).ssl = s.ssl := rfl
@[simp] theorem State.raise_errs : (s.raise c).errs = s.errs.record c := rfl
@[simp] theorem State.raise_cmds : (s.raise c).cmds = s.cmds := rfl
@[simp] theorem State.raise_resps : (s.raise c).resps = s.resps ++ [.error c] := rfl

@[simp] theorem State.issue_dem : (s.issue w).dem = s.dem := rfl
@[simp] theorem State.issue_mod : (s.issue w).mod = s.mod := rfl
@[simp] theorem State.issue_ssl : (s.issue w).ssl = s.ssl := rfl
@[simp] theorem State.issue_errs : (s.issue w).errs = s.errs := rfl
@[simp] theorem State.issue_cmds : (s.issue w).cmds = w :: s.cmds := rfl
@[simp] theorem State.issue_resps : (s.issue w).resps = s.resps := rfl

@[simp] theorem State.setDem_toBlock : (s.setDem d).toBlock = { s.toBlock with dem := d } := rfl
@[simp] theorem State.setMod_toBlock : (s.setMod m).toBlock = { s.toBlock with mod := m } := rfl
@[simp] theorem State.setSsl_toBlock : (s.setSsl l).toBlock = { s.toBlock with ssl := l } := rfl
@[simp] theorem State.respond_toBlock : (s.respond r).toBlock = s.toBlock := rfl
@[simp] theorem State.raise_toBlock : (s.raise c).toBlock = { s.toBlock with errs := s.errs.record c } := rfl
@[simp] theorem State.issue_toBlock : (s.issue w).toBlock = s.toBlock := rfl

/-- The ranges of 10_state.md R20 as numbers, for arithmetic. -/
theorem Ssl.lptr_le : l.lptr.val ≤ 3125 := Nat.le_of_lt_succ l.lptr.isLt
theorem Ssl.scount_le : l.scount.val ≤ 5 := Nat.le_of_lt_succ l.scount.isLt
theorem Mod.mocnt_le : m.mocnt.val ≤ 256 := Nat.le_of_lt_succ m.mocnt.isLt
theorem Dem.bcnt_lt : d.bcnt.val < 8 := d.bcnt.isLt

end Sys2Proof.Machine
end

