-- ==== Sys2Proof/Laws/Ops.lean ====
section
/-! SUPPORT. One lemma per shared operation that says what it can do: the error record, raising, taking a command,
the step, and the meaning of each command in each of its cases. -/

namespace Sys2Proof.Machine

open Sys2Proof

/-- Recording an error keeps an earlier one, and otherwise sets ERR and the code. -/
theorem Errs.record_cases (e : Errs) (c : ErrCode) :
    (e.err = true ∧ e.record c = e) ∨ (e.err = false ∧ e.record c = { err := true, ecode := c.code }) := by
  cases h : e.err <;> simp [Errs.record, h]

@[simp] theorem Errs.record_err (e : Errs) (c : ErrCode) : (e.record c).err = true := by
  rcases e.record_cases c with ⟨h, h'⟩ | ⟨-, h'⟩ <;> simp [*]

/-- Taking a command removes the oldest word and nothing else. -/
theorem State.takeCommand_cases (s : State) :
    (s.cmds = [] ∧ s.takeCommand = none) ∨
      ∃ w rest, s.cmds = w :: rest ∧ s.takeCommand = some (w, { s with cmds := rest }) := by
  unfold State.takeCommand
  cases h : s.cmds with
  | nil => exact .inl ⟨rfl, rfl⟩
  | cons w rest => exact .inr ⟨w, rest, rfl, rfl⟩

/-- What a step can do: idle, execute a decoded command, or raise E_ILLEGAL. -/
theorem step_cases (s : State) :
    (s.cmds = [] ∧ step s = .next s) ∨
      ∃ w rest, s.cmds = w :: rest ∧
        ((∃ i, decode w = .ok i ∧ step s = exec i { s with cmds := rest }) ∨
          ((∃ e, decode w = .error e) ∧ step s = .next (State.raise { s with cmds := rest } .illegal))) := by
  rcases s.takeCommand_cases with ⟨hc, ht⟩ | ⟨w, rest, hc, ht⟩
  · exact .inl ⟨hc, by simp [step, ht]⟩
  · refine .inr ⟨w, rest, hc, ?_⟩
    cases hd : decode w with
    | ok i => exact .inl ⟨i, rfl, by simp [step, ht, hd]⟩
    | error e => exact .inr ⟨⟨e, rfl⟩, by simp [step, ht, hd]⟩

/-- What executing a command can do: either it raises one error, or it respects the frame of its unit: it puts
a new state into at most one unit and responds once. -/
theorem exec_cases (i : Instr) (s : State) :
    (∃ c, exec i s = .next (s.raise c)) ∨
      ∃ r, (∃ d, exec i s = .next ((s.setDem d).respond r)) ∨ (∃ m, exec i s = .next ((s.setMod m).respond r)) ∨
        (∃ l, exec i s = .next ((s.setSsl l).respond r)) ∨ exec i s = .next (s.respond r) := by
  cases i with
  | demReset rate => exact .inr ⟨_, .inl ⟨_, rfl⟩⟩
  | demFeed raw =>
    simp only [exec, execDemFeed]
    split
    · exact .inr ⟨_, .inl ⟨_, rfl⟩⟩
    · exact .inl ⟨_, rfl⟩
  | demFinish =>
    simp only [exec, execDemFinish]
    split
    · exact .inr ⟨_, .inr (.inr (.inr rfl))⟩
    · exact .inl ⟨_, rfl⟩
  | modBegin =>
    simp only [exec, execModBegin]
    split
    · exact .inl ⟨_, rfl⟩
    · exact .inr ⟨_, .inr (.inl ⟨_, rfl⟩)⟩
  | modWord sync data =>
    simp only [exec, execModWord]
    split
    · exact .inr ⟨_, .inr (.inl ⟨_, rfl⟩)⟩
    · exact .inl ⟨_, rfl⟩
  | modEnd =>
    simp only [exec, execModEnd]
    split
    · exact .inr ⟨_, .inr (.inl ⟨_, rfl⟩)⟩
    · exact .inl ⟨_, rfl⟩
  | sslClear => exact .inr ⟨_, .inr (.inr (.inl ⟨_, rfl⟩))⟩
  | sslLoad data =>
    simp only [exec, execSslLoad]
    split
    · exact .inr ⟨_, .inr (.inr (.inl ⟨_, rfl⟩))⟩
    · exact .inl ⟨_, rfl⟩
  | sslLocate la =>
    simp only [exec, execSslLocate]
    split
    · exact .inr ⟨_, .inr (.inr (.inl ⟨_, rfl⟩))⟩
    · exact .inl ⟨_, rfl⟩
  | regRead reg =>
    simp only [exec, execRegRead]
    split
    · exact .inr ⟨_, .inr (.inr (.inr rfl))⟩
    · exact .inl ⟨_, rfl⟩

/-- A register read that answers has a number below 0x0A. -/
theorem State.register_some {s : State} {r : Byte} {v : BitVec 32} (h : s.register r = some v) : r.toNat < 10 := by
  unfold State.register at h
  split at h <;> first | omega | cases h

/-- What the host sees of one command: a block fault, or one response and the state the step left. -/
theorem hostIssue_cases (b : State) (i : Instr) :
    hostIssue b i = .error .blockFault ∨
      ∃ t r, hostIssue b i = .ok (t, r) ∧ step { b with cmds := [encode i], resps := [] } = .next t ∧
        t.resps = [r] := by
  unfold hostIssue
  split
  · rename_i t ht
    split
    · exact .inl rfl
    · rename_i r hr _
      exact .inr ⟨t, _, rfl, ht, by assumption⟩
    · exact .inl rfl
  · exact .inl rfl
  · exact .inl rfl

end Sys2Proof.Machine
end

