-- ==== Sys2Proof/Laws/Converter.lean ====
section
/-! SUPPORT. What the host's shared operations do: reading a source, and issuing a sequence of commands. -/

namespace Sys2Proof.Machine

open Sys2Proof

/-- A read inside the source is the byte there; past its end HOST_OOB_READ decides. -/
theorem srcByte_cases (oob : OobRead) (src : List Byte) (a : Nat) :
    (∃ h : a < src.length, srcByte oob src a = .ok src[a]) ∨
      (src.length ≤ a ∧ ((oob = .fault ∧ srcByte oob src a = .error .sourceTruncated) ∨
        ∃ b, oob = .fill b ∧ srcByte oob src a = .ok b)) := by
  unfold srcByte
  by_cases h : a < src.length
  · exact .inl ⟨h, by simp [h]⟩
  · refine .inr ⟨by omega, ?_⟩
    have : src[a]? = none := List.getElem?_eq_none (by omega)
    cases oob with
    | fault => exact .inl ⟨rfl, by simp [this]⟩
    | fill b => exact .inr ⟨b, rfl, by simp [this]⟩

/-- A 16-bit field is the value of its two bytes. -/
theorem srcU16_ok {oob : OobRead} {src : List Byte} {a : Nat} {lo hi : Byte} (h : srcByte oob src a = .ok lo)
    (h' : srcByte oob src (a + 1) = .ok hi) : srcU16 oob src a = .ok (le16 lo hi) := by
  simp [srcU16, h, h']

/-- The track lengths pass when each of them is read and long enough. -/
theorem checkTrackLens_ok {oob : OobRead} {src : List Byte} {lo : Nat} {rate : Rate} {ts : List Nat}
    (h : ∀ t ∈ ts, ∃ len, trackLen oob src lo t = .ok len ∧ trackMinLen rate ≤ len) :
    checkTrackLens oob src lo rate ts = .ok () := by
  induction ts with
  | nil => rfl
  | cons t ts ih =>
    obtain ⟨len, hl, hm⟩ := h t (List.mem_cons_self ..)
    have hn : ¬ len < trackMinLen rate := Nat.not_lt.mpr hm
    simpa [checkTrackLens, hl, hn] using ih (fun t' ht' => h t' (List.mem_cons_of_mem _ ht'))

@[simp] theorem hostRun_nil (b : State) : hostRun b [] = .ok (b, []) := rfl

/-- A sequence runs when its first command does and the rest does after it. -/
theorem hostRun_cons_ok {b b₁ b₂ : State} {i : Instr} {is : List Instr} {r : Response} {rs : List Response}
    (h : hostIssue b i = .ok (b₁, r)) (h' : hostRun b₁ is = .ok (b₂, rs)) :
    hostRun b (i :: is) = .ok (b₂, r :: rs) := by
  simp [hostRun, h, h']

/-- Two sequences that run in turn run as one. -/
theorem hostRun_append_ok {b b₁ b₂ : State} {is js : List Instr} {rs qs : List Response}
    (h : hostRun b is = .ok (b₁, rs)) (h' : hostRun b₁ js = .ok (b₂, qs)) :
    hostRun b (is ++ js) = .ok (b₂, rs ++ qs) := by
  induction is generalizing b rs with
  | nil =>
    simp only [hostRun_nil, Except.ok.injEq, Prod.mk.injEq] at h
    obtain ⟨rfl, rfl⟩ := h
    simpa using h'
  | cons i is ih =>
    simp only [hostRun] at h
    split at h
    · cases h
    · rename_i b' r hi
      split at h
      · cases h
      · rename_i b'' rs' hr
        simp only [Except.ok.injEq, Prod.mk.injEq] at h
        obtain ⟨rfl, rfl⟩ := h
        exact hostRun_cons_ok hi (ih hr)

@[simp] theorem responseBytes_append (rs qs : List Response) :
    responseBytes (rs ++ qs) = responseBytes rs ++ responseBytes qs := by
  simp [responseBytes]

end Sys2Proof.Machine
end

