-- ==== Sys2Proof/Laws/Demodulator.lean ====
section
/-! SUPPORT. What the stages of a cell step do, one lemma each (40_demodulator.md R103). -/

namespace Sys2Proof.Machine

open Sys2Proof

theorem CellRegs.append_cases (c : CellRegs) (b : Bool) :
    (c.phase = .data ∧ c.append b = { c with dacc := shiftIn c.dacc b, count := c.count + 1 }) ∨
      (c.phase = .sync ∧ c.append b = { c with sacc := shiftIn c.sacc b }) := by
  cases h : c.phase
  · exact .inr ⟨rfl, by simp [CellRegs.append, h]⟩
  · exact .inl ⟨rfl, by simp [CellRegs.append, h]⟩

@[simp] theorem CellRegs.append_phase (c : CellRegs) (b : Bool) : (c.append b).phase = c.phase := by
  rcases c.append_cases b with ⟨h, h'⟩ | ⟨h, h'⟩ <;> simp [h']

theorem CellRegs.resyncData_of_sync {c : CellRegs} (h : c.phase = .sync) : c.resyncData = c := by
  simp [CellRegs.resyncData, h]

theorem CellRegs.resyncSync_of_data {c : CellRegs} (h : c.phase = .data) : c.resyncSync = c := by
  simp [CellRegs.resyncSync, h]

@[simp] theorem Dem.finishCell_step (d : Dem) (c : CellRegs) : (d.finishCell c).step = d.step := rfl
@[simp] theorem Dem.finishCell_dinit (d : Dem) (c : CellRegs) : (d.finishCell c).dinit = d.dinit := rfl
@[simp] theorem Dem.cellStep_step (d : Dem) (b : Bool) : (d.cellStep b).step = d.step := rfl
@[simp] theorem Dem.cellStep_dinit (d : Dem) (b : Bool) : (d.cellStep b).dinit = d.dinit := rfl

/-- Emitting appends the byte below 3125 bytes and drops it there. -/
theorem emitByte_cases (o : List Byte) (v : Byte) :
    (o.length < 3125 ∧ emitByte o v = o ++ [v]) ∨ (3125 ≤ o.length ∧ emitByte o v = o) := by
  unfold emitByte
  split
  · exact .inl ⟨by assumption, rfl⟩
  · rename_i h
    exact .inr ⟨Nat.le_of_not_lt h, rfl⟩

theorem emitByte_length_le {o : List Byte} (h : o.length ≤ 3125) (v : Byte) : (emitByte o v).length ≤ 3125 := by
  rcases emitByte_cases o v with ⟨hl, he⟩ | ⟨hl, he⟩ <;> simp [he] <;> omega

/-- A run of cell steps keeps what each one keeps. -/
theorem Dem.foldl_cellStep_keeps (P : Dem → Prop) (h : ∀ d b, P d → P (d.cellStep b)) (bs : List Bool) (d : Dem)
    (hd : P d) : P (bs.foldl Dem.cellStep d) := by
  induction bs generalizing d with
  | nil => exact hd
  | cons b bs ih => exact ih _ (h d b hd)

@[simp] theorem Dem.feed_step (d : Dem) (raw : Byte) : (d.feed raw).step = d.step :=
  Dem.foldl_cellStep_keeps (fun x => x.step = d.step) (fun _ _ h => h) _ d rfl

@[simp] theorem Dem.feed_dinit (d : Dem) (raw : Byte) : (d.feed raw).dinit = d.dinit :=
  Dem.foldl_cellStep_keeps (fun x => x.dinit = d.dinit) (fun _ _ h => h) _ d rfl

@[simp] theorem samples_one (raw : Byte) :
    samples .one raw = [raw.getLsbD 0, raw.getLsbD 1, raw.getLsbD 2, raw.getLsbD 3, raw.getLsbD 4, raw.getLsbD 5,
      raw.getLsbD 6, raw.getLsbD 7] := rfl

@[simp] theorem samples_two (raw : Byte) :
    samples .two raw = [raw.getLsbD 1, raw.getLsbD 3, raw.getLsbD 5, raw.getLsbD 7] := rfl

end Sys2Proof.Machine
end

