-- ==== Sys2Proof/Laws/Locator.lean ====
section
/-! SUPPORT. What FindPat, MarkRun, the payload skip and one turn of the scan's loop do (42_sector_locator.md R151, R154, R155). -/

namespace Sys2Proof.Machine

open Sys2Proof

/-- Holding a pattern is holding each of its bytes. -/
theorem Memory.holdsAt_iff (t : Memory) (i : Nat) (pat : List Byte) :
    t.holdsAt i pat = true ↔ ∀ k (h : k < pat.length), t.read (i + k) = pat[k] := by
  induction pat generalizing i with
  | nil => simp [Memory.holdsAt]
  | cons p ps ih =>
    simp only [Memory.holdsAt, Bool.and_eq_true, beq_iff_eq, ih]
    constructor
    · rintro ⟨h0, h⟩ k hk
      cases k with
      | zero => exact h0
      | succ k => simpa [Nat.add_assoc, Nat.add_comm 1 k] using h k (by simpa using hk)
    · intro h
      refine ⟨h 0 (by simp), fun k hk => ?_⟩
      have := h (k + 1) (by simpa using hk)
      simpa [Nat.add_assoc, Nat.add_comm 1 k] using this

/-- An offset FindPat answers lies in the window and holds the pattern. -/
theorem findPat_some {t : Memory} {c w : Nat} {pat : List Byte} {p : Nat} (h : findPat t c w pat = some p) :
    p < w ∧ c + p + pat.length ≤ min (c + w) 3125 ∧ t.holdsAt (c + p) pat = true := by
  have hp := List.find?_some h
  have hm := List.mem_of_find?_eq_some h
  rw [Bool.and_eq_true, decide_eq_true_eq] at hp
  exact ⟨List.mem_range.mp hm, hp.1, hp.2⟩

theorem markAt_getLsbD (m : Mask) (i j : Nat) (hi : i < 3125) :
    (markAt m i).getLsbD j = (m.getLsbD j || decide (j = i)) := by
  simp only [markAt, BitVec.getLsbD_or, BitVec.getLsbD_twoPow]
  congr 1
  by_cases h : j = i
  · simp [h, hi]
  · have : ¬ i = j := fun e => h e.symm
    simp [h, this]

/-- The marking loop stops where the run or the side ends. -/
theorem markFrom_end (t : Memory) (n : Nat) (m : Mask) (i : Nat) :
    i ≤ (markFrom t n m i).2 ∧ (markFrom t n m i).2 ≤ i + n := by
  induction n generalizing m i with
  | zero => simp [markFrom]
  | succ n ih =>
    simp only [markFrom]
    split
    · have := ih (markAt m i) (i + 1)
      omega
    · simp

/-- MarkRun goes forward and not past the side's end. -/
theorem markRun_end (t : Memory) (m : Mask) {s : Nat} (h : s < 3125) :
    s < (markRun t m s).2 ∧ (markRun t m s).2 ≤ 3125 := by
  have := markFrom_end t (3125 - (s + 1)) (markAt m s) (s + 1)
  simp only [markRun]
  omega

/-- The payload skip goes forward: by 530, or by the length field and 30 when two bytes are left. -/
theorem payloadSkip_some {t : Memory} {la : Strategy} {c c' : Nat} (h : payloadSkip t la c = some c') :
    (la = .fixed ∧ c' = c + 530) ∨ (la = .lengthAware ∧ c + 1 < 3125 ∧ c' = c + lengthField t c + 30) := by
  cases la with
  | fixed =>
    simp only [payloadSkip, Option.some.injEq] at h
    exact .inl ⟨rfl, h.symm⟩
  | lengthAware =>
    simp only [payloadSkip] at h
    split at h
    · cases h
    · rename_i hlt
      exact .inr ⟨rfl, by omega, by simpa using h.symm⟩

/-- One turn of the scan's loop: it stops at the bound, at a failed step, after the fifth sector or for want of
a length field, or goes on from the skipped cursor. -/
theorem scanFrom_cases (t : Memory) (la : Strategy) (k : Nat) (m : Mask) (n c : Nat) :
    (3125 ≤ c ∧ scanFrom t la (k + 1) m n c = { mask := m, count := n, cursor := c, stop := .bound }) ∨
      (c < 3125 ∧
        ((∃ why, (sectorStep1 t m c).stopped = some why ∧ scanFrom t la (k + 1) m n c =
            { mask := (sectorStep1 t m c).mask, count := n, cursor := (sectorStep1 t m c).cursor, stop := why }) ∨
          ((sectorStep1 t m c).stopped = none ∧
            ((k = 0 ∧ scanFrom t la (k + 1) m n c =
                { mask := (sectorStep1 t m c).mask, count := n + 1, cursor := (sectorStep1 t m c).cursor,
                  stop := .done }) ∨
              (payloadSkip t la (sectorStep1 t m c).cursor = none ∧ scanFrom t la (k + 1) m n c =
                { mask := (sectorStep1 t m c).mask, count := n + 1, cursor := (sectorStep1 t m c).cursor,
                  stop := .lenOob }) ∨
              (∃ c', payloadSkip t la (sectorStep1 t m c).cursor = some c' ∧
                scanFrom t la (k + 1) m n c = scanFrom t la k (sectorStep1 t m c).mask (n + 1) c'))))) := by
  simp only [scanFrom]
  split
  · exact .inl ⟨by assumption, rfl⟩
  · refine .inr ⟨by omega, ?_⟩
    split
    · rename_i why hw
      exact .inl ⟨why, hw, rfl⟩
    · rename_i hw
      refine .inr ⟨hw, ?_⟩
      split
      · rename_i hk
        exact .inl ⟨hk, rfl⟩
      · split
        · rename_i hp
          exact .inr (.inl ⟨hp, rfl⟩)
        · rename_i c' hp
          exact .inr (.inr ⟨c', hp, rfl⟩)

@[simp] theorem Ssl.cleared_tbuf (l : Ssl) : l.cleared.tbuf = l.tbuf := rfl
@[simp] theorem Ssl.cleared_lptr (l : Ssl) : l.cleared.lptr = 0 := rfl
@[simp] theorem Ssl.cleared_mask (l : Ssl) : l.cleared.mask = 0#config.sideLen := rfl
@[simp] theorem Ssl.cleared_rvalid (l : Ssl) : l.cleared.rvalid = false := rfl
@[simp] theorem Ssl.store_tbuf (l : Ssl) (la : Strategy) (r : Scan) : (l.store la r).tbuf = l.tbuf := rfl
@[simp] theorem Ssl.store_lptr (l : Ssl) (la : Strategy) (r : Scan) : (l.store la r).lptr = l.lptr := rfl
@[simp] theorem Ssl.store_mask (l : Ssl) (la : Strategy) (r : Scan) : (l.store la r).mask = r.mask := rfl
@[simp] theorem Ssl.store_rvalid (l : Ssl) (la : Strategy) (r : Scan) : (l.store la r).rvalid = true := rfl

end Sys2Proof.Machine
end

