-- ==== Sys2Proof/Laws/Memory.lean ====
section
/-! SUPPORT. The laws of TBUF: every operation keeps the canonical form, a read after a write, and equal contents
are equal data. -/

namespace Sys2Proof.Machine

open Sys2Proof

theorem Memory.wf_nil : Memory.wf [] := by simp [Memory.wf]

theorem Memory.wf_tail {c : Host.Cell} {m : Memory} (h : Memory.wf (c :: m)) : Memory.wf m :=
  ⟨(List.pairwise_cons.mp h.1).2, fun x hx => h.2 x (List.mem_cons_of_mem _ hx)⟩

/-- An index below every listed one reads as an unlisted index. -/
theorem Memory.read_of_lt {m : Memory} {a : Nat} (h : ∀ c ∈ m, a < c.1) : m.read a = Memory.unlisted := by
  induction m with
  | nil => rfl
  | cons c m ih =>
    have hc := h c (List.mem_cons_self ..)
    have : a ≠ c.1 := by omega
    simp only [Memory.read, this, if_false]
    exact ih (fun x hx => h x (List.mem_cons_of_mem _ hx))

theorem Memory.read_put (a : Nat) (v : Byte) (m : Memory) (x : Nat) (h : ∀ c ∈ m, a < c.1) :
    (Memory.put a v m).read x = if x = a then v else m.read x := by
  unfold Memory.put
  by_cases hv : v = Memory.unlisted
  · by_cases hx : x = a
    · subst hx; simp [hv, Memory.read_of_lt h]
    · simp [hv, hx]
  · simp only [hv, if_false, Memory.read]

theorem Memory.mem_put {a : Nat} {v : Byte} {m : Memory} {c : Host.Cell} (h : c ∈ Memory.put a v m) :
    (c = (a, v) ∧ v ≠ Memory.unlisted) ∨ c ∈ m := by
  unfold Memory.put at h
  split at h
  · exact .inr h
  · rename_i hv
    rcases List.mem_cons.mp h with rfl | h
    · exact .inl ⟨rfl, hv⟩
    · exact .inr h

/-- A cell of a written memory is the written one or was there before. -/
theorem Memory.mem_write {m : Memory} {a : Nat} {v : Byte} {c : Host.Cell} (h : c ∈ m.write a v) :
    (c = (a, v) ∧ v ≠ Memory.unlisted) ∨ c ∈ m := by
  induction m with
  | nil => exact Memory.mem_put h
  | cons b m ih =>
    simp only [Memory.write] at h
    split at h
    · exact Memory.mem_put h
    · split at h
      · rcases Memory.mem_put h with h | h
        · exact .inl h
        · exact .inr (List.mem_cons_of_mem _ h)
      · rcases List.mem_cons.mp h with rfl | h
        · exact .inr (List.mem_cons_self ..)
        · rcases ih h with h | h
          · exact .inl h
          · exact .inr (List.mem_cons_of_mem _ h)

theorem Memory.pairwise_put {a : Nat} {v : Byte} {m : Memory} (h : m.Pairwise (fun c c' => c.1 < c'.1))
    (ha : ∀ c ∈ m, a < c.1) : (Memory.put a v m).Pairwise (fun c c' => c.1 < c'.1) := by
  unfold Memory.put
  split
  · exact h
  · exact List.pairwise_cons.mpr ⟨ha, h⟩

theorem Memory.pairwise_write {m : Memory} (a : Nat) (v : Byte) (h : m.Pairwise (fun c c' => c.1 < c'.1)) :
    (m.write a v).Pairwise (fun c c' => c.1 < c'.1) := by
  induction m with
  | nil => exact Memory.pairwise_put h (by simp)
  | cons b m ih =>
    have hb := List.pairwise_cons.mp h
    simp only [Memory.write]
    split
    · rename_i hlt
      refine Memory.pairwise_put h (fun c hc => ?_)
      rcases List.mem_cons.mp hc with rfl | hc
      · exact hlt
      · exact lt_trans hlt (hb.1 c hc)
    · split
      · rename_i heq
        exact Memory.pairwise_put hb.2 (fun c hc => heq ▸ hb.1 c hc)
      · refine List.pairwise_cons.mpr ⟨fun c hc => ?_, ih hb.2⟩
        rcases Memory.mem_write hc with ⟨rfl, -⟩ | hc
        · simp only; omega
        · exact hb.1 c hc

/-- A write below 3125 keeps the canonical form. -/
theorem Memory.wf_write {m : Memory} (h : m.wf) {a : Nat} (ha : a < config.sideLen) (v : Byte) :
    (m.write a v).wf := by
  refine ⟨Memory.pairwise_write a v h.1, fun c hc => ?_⟩
  rcases Memory.mem_write hc with ⟨rfl, hv⟩ | hc
  · exact ⟨ha, hv⟩
  · exact h.2 c hc

/-- A read after a write: the written byte at its index, what was there elsewhere. -/
theorem Memory.read_write {m : Memory} (h : m.Pairwise (fun c c' => c.1 < c'.1)) (a : Nat) (v : Byte) (x : Nat) :
    (m.write a v).read x = if x = a then v else m.read x := by
  induction m with
  | nil => exact Memory.read_put a v [] x (by simp)
  | cons b m ih =>
    have hb := List.pairwise_cons.mp h
    simp only [Memory.write]
    split
    · rename_i hlt
      refine Memory.read_put a v _ x (fun c hc => ?_)
      rcases List.mem_cons.mp hc with rfl | hc
      · exact hlt
      · exact lt_trans hlt (hb.1 c hc)
    · split
      · rename_i heq
        rw [Memory.read_put a v m x (fun c hc => heq ▸ hb.1 c hc)]
        by_cases hx : x = a
        · simp [hx]
        · have : x ≠ b.1 := by omega
          simp [hx, Memory.read, this]
      · rename_i hlt hne
        by_cases hx : x = b.1
        · simp only [Memory.read, hx, if_true]
          exact (if_neg (fun e => hne e.symm)).symm
        · simp [Memory.read, hx, ih hb.2]

/-- Two canonical memories that read alike are the same list. -/
theorem Memory.eq_of_read {m m' : Memory} (h : m.wf) (h' : m'.wf) (hr : ∀ a, m.read a = m'.read a) : m = m' := by
  induction m generalizing m' with
  | nil =>
    cases m' with
    | nil => rfl
    | cons c m' =>
      have := hr c.1
      simp [Memory.read] at this
      exact absurd this.symm (h'.2 c (List.mem_cons_self ..)).2
  | cons b m ih =>
    have hb := List.pairwise_cons.mp h.1
    cases m' with
    | nil =>
      have := hr b.1
      simp [Memory.read] at this
      exact absurd this (h.2 b (List.mem_cons_self ..)).2
    | cons c m' =>
      have hc := List.pairwise_cons.mp h'.1
      have hbc : b.1 = c.1 := by
        rcases Nat.lt_trichotomy b.1 c.1 with hlt | heq | hlt
        · have h1 := hr b.1
          rw [Memory.read_of_lt (m := c :: m') (a := b.1) (by
            intro x hx
            rcases List.mem_cons.mp hx with rfl | hx
            · exact hlt
            · exact lt_trans hlt (hc.1 x hx))] at h1
          simp [Memory.read] at h1
          exact absurd h1 (h.2 b (List.mem_cons_self ..)).2
        · exact heq
        · have h1 := hr c.1
          rw [Memory.read_of_lt (m := b :: m) (a := c.1) (by
            intro x hx
            rcases List.mem_cons.mp hx with rfl | hx
            · exact hlt
            · exact lt_trans hlt (hb.1 x hx))] at h1
          simp [Memory.read] at h1
          exact absurd h1.symm (h'.2 c (List.mem_cons_self ..)).2
      have hv : b.2 = c.2 := by
        have := hr b.1
        simpa [Memory.read, hbc] using this
      have htail : m = m' := by
        refine ih (Memory.wf_tail h) (Memory.wf_tail h') (fun a => ?_)
        by_cases ha : a = b.1
        · rw [Memory.read_of_lt (fun x hx => ha ▸ hb.1 x hx),
            Memory.read_of_lt (fun x hx => (ha.trans hbc) ▸ hc.1 x hx)]
        · have := hr a
          simpa [Memory.read, ha, (hbc ▸ ha : ¬ a = c.1)] using this
      rw [htail, Prod.ext hbc hv]

end Sys2Proof.Machine
end

