-- ==== Sys2Proof/Laws/Modulator.lean ====
section
/-! SUPPORT. What the modulator's shared operations do (41_modulator.md R132 … R134). -/

namespace Sys2Proof.Machine

open Sys2Proof

/-- Counting a word adds two bytes, up to 256. -/
theorem Mod.countWord_val (m : Mod) : m.countWord.val = min 256 (m.mocnt.val + 2) := rfl

/-- The pad brings the count to 256. -/
theorem Mod.pad_length (m : Mod) : m.pad.length = 256 - m.mocnt.val := by
  simp [Mod.pad]

theorem Mod.mem_pad {m : Mod} {b : Byte} (h : b ∈ m.pad) : b = 0x55#8 := (List.mem_replicate.mp h).2

@[simp] theorem wordBytes_length (w : Word) : (wordBytes w).length = 2 := rfl

/-- The flagged word is the plain word without clock cell c1. -/
theorem fmWord_cases (d : Byte) (sync : Bool) :
    (sync = false ∧ fmWord d sync = fmPlain d) ∨ (sync = true ∧ fmWord d sync = fmPlain d &&& 0xEFFF#16) := by
  cases sync
  · exact .inl ⟨rfl, rfl⟩
  · exact .inr ⟨rfl, rfl⟩

end Sys2Proof.Machine
end

