-- ==== Sys2Proof/Laws/PerInstr.lean ====
section
/-! SUPPORT. The family `EncodeLegal`: the word of every command is legal in the sense of 30_encoding.md R83. -/

namespace Sys2Proof.Laws.EncodeLegal

open Sys2Proof

/-- The fields of the command's word pass the four checks of 30_encoding.md R83. -/
def Statement (i : Instr) : Prop := i.command.wellFormed = true

theorem demReset (rate : Rate) : Statement (.demReset rate) := by cases rate <;> rfl
theorem demFeed (raw : Byte) : Statement (.demFeed raw) := rfl
theorem demFinish : Statement .demFinish := rfl
theorem modBegin : Statement .modBegin := rfl
theorem modWord (sync : Bool) (data : Byte) : Statement (.modWord sync data) := rfl
theorem modEnd : Statement .modEnd := rfl
theorem sslClear : Statement .sslClear := rfl
theorem sslLoad (data : Byte) : Statement (.sslLoad data) := rfl
theorem sslLocate (la : Strategy) : Statement (.sslLocate la) := by cases la <;> rfl
theorem regRead (reg : Byte) : Statement (.regRead reg) := rfl

end Sys2Proof.Laws.EncodeLegal
end

