-- ==== Sys2Proof/Tests/Slice0.lean ====
section
/-! SUPPORT. The model's own tests: well-formedness, decoding of words written out from 30_encoding.md R82, single
steps with results taken from 95_test_vectors.md and the rules' examples, and for each statement with hypotheses
a state and operands that meet them. -/

namespace Sys2Proof.Tests.Slice0

open Sys2Proof Sys2Proof.Machine

/-! ## Well-formedness: one ill-formed command for each check of 30_encoding.md R83 -/

theorem test_wf_reserved_opcode :
    ([0x0#4, 0xB#4, 0xF#4].map fun op => Command.wellFormed { op := op, rsv := 0#3, f := false, d := 0#8 }) =
      [false, false, false] := by decide

theorem test_wf_reserved_bits : Command.wellFormed { op := 0x1#4, rsv := 1#3, f := false, d := 0#8 } = false := by
  decide

theorem test_wf_flag : Command.wellFormed { op := 0x2#4, rsv := 0#3, f := true, d := 0x55#8 } = false := by decide

theorem test_wf_operand : Command.wellFormed { op := 0x9#4, rsv := 0#3, f := true, d := 0x01#8 } = false := by
  decide

theorem test_wf_legal : Command.wellFormed { op := 0x5#4, rsv := 0#3, f := true, d := 0xFF#8 } = true := by decide

/-! ## Decoding: words written out bit by bit, OP RSV F D (30_encoding.md R80, R82) -/

theorem test_decode_dem_reset_125 : decode 0b0001_000_0_00000000#16 = .ok (.demReset .bitlen2) := rfl
theorem test_decode_dem_reset_250 : decode 0b0001_000_1_00000000#16 = .ok (.demReset .bitlen4) := rfl
theorem test_decode_dem_feed : decode 0b0010_000_0_01101101#16 = .ok (.demFeed 0x6D#8) := rfl
theorem test_decode_dem_finish : decode 0b0011_000_0_00000000#16 = .ok .demFinish := rfl
theorem test_decode_mod_begin : decode 0b0100_000_0_00000000#16 = .ok .modBegin := rfl
theorem test_decode_mod_word : decode 0b0101_000_0_11101010#16 = .ok (.modWord false 0xEA#8) := rfl
theorem test_decode_mod_word_s : decode 0b0101_000_1_00000110#16 = .ok (.modWord true 0x06#8) := rfl
theorem test_decode_mod_end : decode 0b0110_000_0_00000000#16 = .ok .modEnd := rfl
theorem test_decode_ssl_clear : decode 0b0111_000_0_00000000#16 = .ok .sslClear := rfl
theorem test_decode_ssl_load : decode 0b1000_000_0_00000110#16 = .ok (.sslLoad 0x06#8) := rfl
theorem test_decode_ssl_locate_fixed : decode 0b1001_000_0_00000000#16 = .ok (.sslLocate .fixed) := rfl
theorem test_decode_ssl_locate_len : decode 0b1001_000_1_00000000#16 = .ok (.sslLocate .lengthAware) := rfl
theorem test_decode_reg_read : decode 0b1010_000_0_00001001#16 = .ok (.regRead 0x09#8) := rfl

/-- 95_test_vectors.md E3, E4, E5: illegal words, each refused by its own name. -/
theorem test_decode_refused :
    decode 0x3100#16 = .error .flagNotZero ∧ decode 0x2155#16 = .error .flagNotZero ∧
      decode 0x1200#16 = .error .reservedBits ∧ decode 0x1001#16 = .error .operandNotZero ∧
      decode 0x7001#16 = .error .operandNotZero ∧ decode 0x0000#16 = .error .reservedOpcode ∧
      decode 0xB000#16 = .error .reservedOpcode ∧ decode 0xF123#16 = .error .reservedOpcode :=
  ⟨rfl, rfl, rfl, rfl, rfl, rfl, rfl, rfl⟩

theorem test_table_word :
    decodeTableWord 16 0x5106 = some (.modWord true 0x06#8) ∧ decodeTableWord 16 0xB000 = none := ⟨rfl, rfl⟩

/-! ## Single steps -/

/-- The state after one step on a command word; `none` if the machine stopped. -/
def after (s : State) (w : Word) : Option State :=
  match step { s with cmds := [w] } with
  | .next t => some t
  | .fault _ => none
  | .refused _ => none

/-- The last response of one step on a command word. -/
def answer (s : State) (w : Word) : Option Response := (after s w).bind (fun t => t.resps.getLast?)

/-- DEM after `dem.reset 125; dem.feed 55` (95_test_vectors.md DV1). -/
def demAfter55 : Dem :=
  { step := .one, phase := .sync, dacc := 0x00#8, sacc := 0x0F#8, bcnt := 4, obuf := [], dinit := true }

/-- The track V10 of 95_test_vectors.md, fully loaded. -/
def v10 : Ssl :=
  { Ssl.powerOn with
    tbuf := [(0, 6#8), (1, 6#8), (2, 6#8), (3, 6#8), (4, 0xEA#8), (5, 0xD3#8), (6, 9#8), (7, 9#8), (8, 9#8),
      (9, 9#8), (10, 9#8), (11, 6#8), (12, 6#8), (13, 6#8), (14, 6#8), (15, 6#8), (16, 6#8), (17, 0xDD#8),
      (18, 0xF3#8)]
    lptr := 3125 }

/-- 40_demodulator.md R101, its example. -/
theorem test_dem_reset_250 :
    ((after State.reset 0x1100#16).map fun t => (t.dem.step, t.dem.dinit, t.dem.phase)) =
      some (.two, true, .sync) := by decide

/-- 95_test_vectors.md DV1: the sync byte, aligned. -/
theorem test_dem_feed_sync_byte :
    ((after { State.reset with dem := demAfter55 } 0x206D#16).map fun t => t.dem) =
      some { demAfter55 with dacc := 0x06#8, sacc := 0xFD#8, bcnt := 0, obuf := [0x06#8] } := by decide

/-- 95_test_vectors.md DV4, cell 30: case (b) swaps the accumulators and emits. -/
theorem test_cell_case_b :
    ({ demAfter55 with dacc := 0xFD#8, sacc := 0x03#8, bcnt := 7 } : Dem).cellStep false =
      { demAfter55 with dacc := 0x06#8, sacc := 0xFD#8, bcnt := 0, obuf := [0x06#8] } := by decide

/-- 95_test_vectors.md DV5: STEP 2 reads the odd bits only (raw byte A2: cells 1, 0, 1, 1 in bits 1, 3, 5, 7). -/
theorem test_samples_step2 : samples .two 0xA2#8 = [true, false, true, true] := by decide

/-- 40_demodulator.md R108: OBUF, then zero bytes. -/
theorem test_dem_finish_pads :
    ((answer { State.reset with dem := { demAfter55 with obuf := [0x06#8] } } 0x3000#16).map fun r =>
      r.byteSeq.take 3) = some [0x06#8, 0x00#8, 0x00#8] := by decide

/-- 95_test_vectors.md E2: DEM_FINISH before any DEM_RESET. -/
theorem test_dem_finish_noinit :
    ((after State.reset 0x3000#16).map fun t => (t.errs.estat, t.resps)) =
      some (0x21#32, [.error .demNoInit]) := by decide

/-- 95_test_vectors.md E3: the encoding is checked before DINIT. -/
theorem test_illegal_before_noinit :
    ((after State.reset 0x3100#16).map fun t => (t.errs.estat, t.resps)) =
      some (0x11#32, [.error .illegal]) := by decide

/-- 95_test_vectors.md E8: a second MOD_BEGIN. -/
theorem test_mod_begin_twice :
    ((after { State.reset with mod := { mopen := true, mocnt := 0 } } 0x4000#16).map fun t =>
      (t.errs.estat, t.mod)) = some (0x31#32, { mopen := true, mocnt := 0 }) := by decide

/-- 41_modulator.md R133, its example: `mod.word.s 0x06` responds 55 6D. -/
theorem test_mod_word_sync :
    answer { State.reset with mod := { mopen := true, mocnt := 0 } } 0x5106#16 =
      some (.bytes [0x55#8, 0x6D#8]) := by decide

/-- 95_test_vectors.md P1: `mod.word 0xEA` responds 7F 77. -/
theorem test_mod_word_plain :
    answer { State.reset with mod := { mopen := true, mocnt := 4 } } 0x50EA#16 =
      some (.bytes [0x7F#8, 0x77#8]) := by decide

/-- 95_test_vectors.md MV2: after 127 words the pad is 2 bytes, and MOCNT is kept. -/
theorem test_mod_end_pad :
    ((after { State.reset with mod := { mopen := true, mocnt := 254 } } 0x6000#16).map fun t =>
      (t.mod, t.resps)) = some ({ mopen := false, mocnt := 254 }, [.bytes [0x55#8, 0x55#8]]) := by decide

/-- 42_sector_locator.md R153, its example. -/
theorem test_ssl_load_first :
    ((after State.reset 0x8006#16).map fun t => (t.ssl.tbuf, t.ssl.lptr)) = some ([(0, 0x06#8)], 1) := by decide

/-- 95_test_vectors.md E10: a load at LPTR = 3125. -/
theorem test_ssl_load_full :
    ((after { State.reset with ssl := v10 } 0x8000#16).map fun t => (t.errs.estat, t.ssl == v10)) =
      some (0x41#32, true) := by decide +kernel

/-- 42_sector_locator.md R152: a clear keeps TBUF. -/
theorem test_ssl_clear :
    ((after { State.reset with ssl := v10 } 0x7000#16).map fun t => (t.ssl.lptr, t.ssl.tbuf == v10.tbuf)) =
      some (0, true) := by decide

/-- 95_test_vectors.md V10, length-aware: count 1, SCUR 49, NO_RUN1, runs 0–3 and 11–16. -/
theorem test_ssl_locate_v10 :
    locateScan v10.tbuf .lengthAware = { mask := 0x1F80F#3125, count := 1, cursor := 49, stop := .noRun1 } := by
  decide +kernel

/-- 95_test_vectors.md V10, fixed: the cursor is 549. -/
theorem test_ssl_locate_v10_fixed :
    ((after { State.reset with ssl := v10 } 0x9000#16).map fun t => (t.ssl.scur, t.ssl.scount, t.ssl.rvalid)) =
      some (549#32, 1, true) := by decide +kernel

/-- 95_test_vectors.md V4a and V4b: a run at 97 lies in the window, one at 98 does not. -/
theorem test_window_edge :
    (locateScan [(97, 6#8), (98, 6#8), (99, 6#8), (100, 0xEA#8), (101, 0xD3#8)] .fixed).cursor = 107 ∧
      (locateScan [(98, 6#8), (99, 6#8), (100, 6#8), (101, 0xEA#8), (102, 0xD3#8)] .fixed).stop = .noRun1 := by
  decide +kernel

/-- 44_register_read.md R230, its example. -/
theorem test_reg_read_dstat :
    answer { State.reset with dem := demAfter55 } 0xA000#16 = some (.word 0x00000041#32) := by decide

/-- 95_test_vectors.md P3: SRES 63 after the fixed scan, RVALID 1, SCOUNT 1, SSTOP 3. -/
theorem test_reg_read_sres :
    answer { State.reset with ssl := { v10 with rvalid := true, scount := 1, sstop := .noRun1 } } 0xA007#16 =
      some (.word 0x63#32) := by decide

/-- 30_encoding.md R87: texts of lines. -/
theorem test_asm_words :
    AsmLine.word (.modWordS 0x06#8) = 0x5106#16 ∧ AsmLine.word (.regReadName .estat) = 0xA009#16 := by decide

/-- 95_test_vectors.md H3: the written header's first 20 bytes and entries 0 and 79 of the lookup table. -/
theorem test_hfe_header :
    (hfeHeader { direction := .rdiToHfe, oobRead := .fault, ifaceCode := 7#8, hdrOther := [] }).take 20 =
      [0x48#8, 0x58#8, 0x43#8, 0x50#8, 0x49#8, 0x43#8, 0x46#8, 0x45#8, 0x00#8, 0x50#8, 0x02#8, 0x00#8, 0x7D#8,
        0x00#8, 0x2C#8, 0x01#8, 0x07#8, 0x00#8, 0x01#8, 0x00#8] := by decide +kernel

theorem test_hfe_lookup_table :
    hfeLookupTable.take 4 = [0x02#8, 0x00#8, 0xD8#8, 0x30#8] ∧
      (hfeLookupTable.drop 316).take 5 = [0xB9#8, 0x07#8, 0xD8#8, 0x30#8, 0xFF#8] := by decide +kernel

/-! ## Witnesses: states and operands that meet the hypotheses of the statements -/

/-- A state with one command waiting. -/
def waiting (s : State) (w : Word) : State := { s with cmds := [w] }

/-- A state whose first error was a MOD_WORD outside a block. -/
def erred : State := { State.reset with errs := { err := true, ecode := 3#4 } }

/-- A state with an open MOD block. -/
def opened : State := { State.reset with mod := { mopen := true, mocnt := 256 } }

/-- A state after DEM_RESET. -/
def started : State := { State.reset with dem := Dem.newTrack .bitlen4 }

/-- A state with 3124 bytes loaded, and one with all of them. -/
def loading : State := { State.reset with ssl := { Ssl.powerOn with lptr := 3124 } }
def loaded : State := { State.reset with ssl := v10 }

theorem witness_EncodeOfDecode : ∃ i, decode 0x51EA#16 = .ok i := ⟨_, rfl⟩

theorem witness_DecodeFollowsTable_rows :
    (0x1100#16 &&& 0xFEFF#16 = 0x1000#16) ∧ (0x20FF#16 &&& 0xFF00#16 = 0x2000#16) ∧
      (0x3000#16 &&& 0xFFFF#16 = 0x3000#16) ∧ (0x4000#16 &&& 0xFFFF#16 = 0x4000#16) ∧
      (0x51FF#16 &&& 0xFE00#16 = 0x5000#16) ∧ (0x6000#16 &&& 0xFFFF#16 = 0x6000#16) ∧
      (0x7000#16 &&& 0xFFFF#16 = 0x7000#16) ∧ (0x80FF#16 &&& 0xFF00#16 = 0x8000#16) ∧
      (0x9100#16 &&& 0xFEFF#16 = 0x9000#16) ∧ (0xA0FF#16 &&& 0xFF00#16 = 0xA000#16) := by decide

theorem witness_DecodeFollowsTable_none :
    (∀ r ∈ [(0x1000#16, 0xFEFF#16), (0x2000#16, 0xFF00#16), (0x3000#16, 0xFFFF#16), (0x4000#16, 0xFFFF#16),
        (0x5000#16, 0xFE00#16), (0x6000#16, 0xFFFF#16), (0x7000#16, 0xFFFF#16), (0x8000#16, 0xFF00#16),
        (0x9000#16, 0xFEFF#16), (0xA000#16, 0xFF00#16)], 0xA100#16 &&& r.2 ≠ r.1) ∧
      (waiting erred 0xA100#16).cmds = 0xA100#16 :: [] := ⟨by simp, rfl⟩

theorem not_decoded {w : Word} {e : IllegalWord} (h : decode w = .error e) : ¬ ∃ i, decode w = .ok i := by
  rintro ⟨i, hi⟩
  rw [h] at hi
  cases hi

theorem witness_IllegalEncodings :
    (¬ ∃ i, decode 0x0FFF#16 = .ok i) ∧ (¬ ∃ i, decode 0xB000#16 = .ok i) ∧ (¬ ∃ i, decode 0xAE00#16 = .ok i) ∧
      (¬ ∃ i, decode 0x3100#16 = .ok i) ∧ (¬ ∃ i, decode 0x9101#16 = .ok i) ∧
      (waiting State.reset 0xB000#16).cmds = 0xB000#16 :: [] ∧ 0x0A ≤ (0x0A#8).toNat ∧ 0x0A ≤ (0xFF#8).toNat :=
  ⟨not_decoded rfl, not_decoded rfl, not_decoded rfl, not_decoded rfl, not_decoded rfl, rfl, by decide, by decide⟩

theorem witness_StepRunsDecodedCommand :
    (waiting started 0x20FF#16).cmds = 0x20FF#16 :: [] ∧ (∃ i, decode 0x20FF#16 = .ok i) ∧ started.cmds = [] :=
  ⟨rfl, ⟨_, rfl⟩, rfl⟩

theorem witness_OneResponsePerCommand : (waiting State.reset 0x0000#16).cmds = 0x0000#16 :: [] := rfl

theorem witness_ErrorTable :
    RespondsError (.regRead 0x0A#8) State.reset .illegal ∧ RespondsError .demFinish State.reset .demNoInit ∧
      RespondsError .modBegin opened .modSeq ∧ RespondsError .modEnd State.reset .modSeq ∧
      RespondsError (.sslLoad 0x00#8) loaded .sslFull ∧ RespondsError (.sslLocate .fixed) loading .sslNotLoaded ∧
      (¬ ∃ i, decode 0xF000#16 = .ok i) ∧ (waiting erred 0xF000#16).cmds = 0xF000#16 :: [] :=
  ⟨⟨_, rfl, rfl⟩, ⟨_, rfl, rfl⟩, ⟨_, rfl, rfl⟩, ⟨_, rfl, rfl⟩, ⟨_, by simp [exec, execSslLoad, loaded, v10]; rfl, rfl⟩,
    ⟨_, by simp [exec, execSslLocate, loading]; rfl, rfl⟩, not_decoded rfl, rfl⟩

theorem witness_ErrorsChangeOnlyErrorState :
    (∃ t, exec .modEnd State.reset = .next t ∧ t.resps = State.reset.resps ++ [.error .modSeq]) ∧
      (∃ t, exec .modBegin { opened with errs := erred.errs } = .next t ∧
        t.resps = opened.resps ++ [.error .modSeq]) :=
  ⟨⟨_, rfl, rfl⟩, ⟨_, rfl, rfl⟩⟩

theorem witness_FirstErrorIsKept :
    (∃ t, step (waiting erred 0x3000#16) = .next t ∧ (waiting erred 0x3000#16).errs.err = true) ∧
      (∃ t, step (waiting State.reset 0x3000#16) = .next t ∧ State.reset.errs.err = false ∧
        t.resps = State.reset.resps ++ [.error .demNoInit]) ∧
      (∃ t, step (waiting State.reset 0x7000#16) = .next t ∧ State.reset.errs.ecode = 0#4 ∧
        t.errs.err = false) :=
  ⟨⟨_, rfl, rfl⟩, ⟨_, rfl, rfl, rfl⟩, ⟨_, rfl, rfl, rfl⟩⟩

theorem witness_BlockRecordDeterminesStep :
    (waiting started 0x206D#16).toBlock = started.toBlock ∧ (waiting started 0x206D#16).cmds = 0x206D#16 :: [] ∧
      { started with cmds := [0x206D#16, 0x3000#16], resps := [.ack] }.toBlock = started.toBlock := ⟨rfl, rfl, rfl⟩

theorem witness_PowerOnValues : ∃ t, exec (.demReset .bitlen2) erred = .next t ∧ erred.errs.err = true :=
  ⟨_, rfl, rfl⟩

theorem inv_started : State.Inv (waiting started 0x20FF#16) :=
  ⟨⟨by decide, fun h => by cases h⟩, rfl, ⟨Memory.wf_nil, fun _ => ⟨rfl, rfl, rfl, rfl, rfl⟩, fun h => by cases h⟩,
    .inl ⟨rfl, rfl⟩⟩

theorem witness_StepKeepsInv :
    State.Inv (waiting started 0x20FF#16) ∧ ∃ t, step (waiting started 0x20FF#16) = .next t :=
  ⟨inv_started, ⟨_, rfl⟩⟩

theorem witness_RegistersReadLegalValues : State.Inv (waiting started 0x20FF#16) := inv_started

theorem witness_word_clauses :
    ((0x1001#16).toNat / 4096 = 1 ∧ 0x1001#16 ≠ 0x1000#16 ∧ 0x1001#16 ≠ 0x1100#16) ∧
      ((0x2100#16).toNat / 4096 = 2 ∧ (0x2100#16).toNat / 256 ≠ 0x20) ∧
      ((0x3100#16).toNat / 4096 = 3 ∧ 0x3100#16 ≠ 0x3000#16) ∧
      ((0x4FFF#16).toNat / 4096 = 4 ∧ 0x4FFF#16 ≠ 0x4000#16) ∧
      ((0x5200#16).toNat / 4096 = 5 ∧ (0x5200#16).toNat / 512 % 8 ≠ 0) ∧
      ((0x6001#16).toNat / 4096 = 6 ∧ 0x6001#16 ≠ 0x6000#16) ∧
      ((0x7001#16).toNat / 4096 = 7 ∧ 0x7001#16 ≠ 0x7000#16) ∧
      ((0x8100#16).toNat / 4096 = 8 ∧ (0x8100#16).toNat / 256 ≠ 0x80) ∧
      ((0x9001#16).toNat / 4096 = 9 ∧ 0x9001#16 ≠ 0x9000#16 ∧ 0x9001#16 ≠ 0x9100#16) ∧
      ((0xA100#16).toNat / 4096 = 10 ∧ (0xA100#16).toNat / 256 ≠ 0xA0) := by decide

theorem witness_DemFeedResult : started.dem.dinit = true ∧ State.reset.dem.dinit = false := ⟨rfl, rfl⟩

theorem witness_CellStepResult_cases :
    shiftIn 0x03#8 false = 0x06#8 ∧
      ({ demAfter55 with dacc := 0xFD#8, sacc := 0x03#8 } : Dem).phase = .sync ∧
      ({ demAfter55 with phase := .data, dacc := 0x03#8, sacc := 0xFD#8 } : Dem).phase = .data := by decide

theorem witness_DataPhaseResync :
    ∃ d : Dem, d.phase = .data ∧ shiftIn d.dacc false = 0x06#8 ∧ d.sacc = 0xFD#8 :=
  ⟨{ demAfter55 with phase := .data, dacc := 0x83#8, sacc := 0xFD#8 }, by decide⟩

theorem witness_SyncPhaseResync :
    ∃ d : Dem, d.phase = .sync ∧ shiftIn d.sacc false = 0x06#8 ∧ d.dacc = 0xFD#8 :=
  ⟨{ demAfter55 with dacc := 0xFD#8, sacc := 0x83#8 }, by decide⟩

theorem witness_EmitKeepsFirstBytes :
    (({ demAfter55 with phase := .data, bcnt := 7 } : Dem).cell true).count = 8 ∧
      (demAfter55.cell true).count ≠ 8 := by decide

theorem witness_ResyncOrderIsIrrelevant :
    let d : Dem := { demAfter55 with phase := .data, dacc := 0x03#8, sacc := 0xFD#8 }
    (d.cellRegs.append false).resyncData ≠ d.cellRegs.append false := by decide

theorem witness_DemFinishResult :
    started.dem.dinit = true ∧ State.reset.dem.dinit = false ∧ started.dem.obuf.length ≤ 3125 :=
  ⟨rfl, rfl, by decide⟩

theorem witness_PadDecodesToZeros :
    State.reset.mod.mopen = false ∧ ([(0x06#8, true)] : List (Byte × Bool)).length ≤ 128 ∧
      (List.replicate 128 ((0xFF#8, false) : Byte × Bool)).length ≤ 128 := ⟨rfl, by decide, by simp⟩

/-- 95_test_vectors.md DV5: the byte 55 at BITLEN 2 and its two bytes at BITLEN 4, with even bits 1 and 0. -/
theorem witness_DoubleRateEquivalence :
    ([0x33#8, 0x22#8] : List Byte).length = 2 * ([0x55#8] : List Byte).length ∧
      ∀ j, j < 8 * ([0x55#8] : List Byte).length →
        (([0x33#8, 0x22#8] : List Byte).getD (j / 4) 0#8).getLsbD (2 * (j % 4) + 1) =
          (([0x55#8] : List Byte).getD (j / 8) 0#8).getLsbD (j % 8) := by decide

theorem witness_ClockSuppression : 6 < 8 := by decide

theorem witness_ModResults : State.reset.mod.mopen = false ∧ opened.mod.mopen = true := ⟨rfl, rfl⟩

theorem witness_FindPatFirstInWindow :
    config.runPat.length = 3 ∧ config.markA.length = 2 ∧ findPat v10.tbuf 0 100 config.markA = some 4 ∧
      findPat v10.tbuf 3125 100 config.runPat = none := by decide

theorem witness_MarkRunMarksTheRun : 3124 < 3125 ∧ (markRun v10.tbuf 0#3125 11).2 = 17 := by decide +kernel

theorem witness_OnlyRunBytesMarked : (locateScan v10.tbuf .fixed).mask.getLsbD 16 = true := by decide +kernel

theorem witness_SslLoadResult :
    loading.ssl.tbuf.wf ∧ loading.ssl.lptr.val < 3125 ∧ loaded.ssl.lptr.val = 3125 :=
  ⟨Memory.wf_nil, by decide, rfl⟩

theorem witness_SslLocateResult : loaded.ssl.lptr.val = 3125 ∧ loading.ssl.lptr.val ≠ 3125 := by decide

/-- The bytes of a list as cells from index `k` on. -/
def cellsFrom (k : Nat) : List Byte → Memory
  | [] => []
  | b :: bs => (k, b) :: cellsFrom (k + 1) bs

theorem read_cellsFrom (bs : List Byte) (k i : Nat) : (cellsFrom k bs).read (k + i) = bs.getD i 0x00#8 := by
  induction bs generalizing k i with
  | nil => rfl
  | cons b bs ih =>
    cases i with
    | zero => simp [cellsFrom, Memory.read]
    | succ i =>
      have h := ih (k + 1) i
      rw [Nat.add_assoc, Nat.add_comm 1 i] at h
      simp [cellsFrom, Memory.read, h]

theorem witness_SslLocateResult_tracks :
    (∀ i, i < 3125 → Memory.read [] i = 0x00#8) ∧
      (∀ i, i < 3125 → (cellsFrom 0 (List.replicate 3125 0x06#8)).read i = 0x06#8) ∧
      (∀ i, i < 3125 → (cellsFrom 0 trackV1).read i = trackV1.getD i 0x00#8) := by
  refine ⟨fun _ _ => rfl, fun i hi => ?_, fun i _ => ?_⟩
  · have h := read_cellsFrom (List.replicate 3125 0x06#8) 0 i
    rw [Nat.zero_add] at h
    rw [h, List.getD_eq_getElem _ _ (by rwa [List.length_replicate]), List.getElem_replicate]
  · have h := read_cellsFrom trackV1 0 i
    rwa [Nat.zero_add] at h

theorem witness_LocateContract :
    State.reset.ssl.tbuf.wf ∧ (List.replicate 3125 0x06#8).length = 3125 :=
  ⟨Memory.wf_nil, List.length_replicate⟩

/-- Two states that differ only in a byte not loaded: index 3124, with LPTR = 3124. -/
theorem witness_StepHidesUnloadedTbuf :
    let s := waiting loading 0x80FF#16
    let t := { s with ssl := { s.ssl with tbuf := [(3124, 0x01#8)] } }
    SameButUnloaded s t ∧ s.ssl.tbuf.wf ∧ t.ssl.tbuf.wf ∧ ∃ s', step s = .next s' := by
  refine ⟨⟨rfl, fun a ha => ?_⟩, Memory.wf_nil, by decide, ⟨_, rfl⟩⟩
  have h : a ≠ 3124 := by
    have : a < 3124 := ha
    omega
  simp [waiting, loading, Ssl.powerOn, Memory.read, h]

theorem witness_PowerOnTbufIsUnobservable :
    Memory.wf [(0, 0x06#8), (3124, 0xFF#8)] ∧ (∃ t, exec (.demReset .bitlen4) loaded = .next t) ∧
      (∃ t, exec .modBegin loaded = .next t) ∧ (∃ t, exec .sslClear loaded = .next t) :=
  ⟨by decide, ⟨_, rfl⟩, ⟨_, rfl⟩, ⟨_, rfl⟩⟩

theorem witness_RegReadResult : 0x0A ≤ (0x0A#8).toNat ∧ 0x0A ≤ (0xFF#8).toNat := by decide

theorem witness_UnitsShareNoState :
    (unitOf (.demFeed 0x55#8) ≠ .reg ∧ (∃ t, exec (.demFeed 0x55#8) started = .next t) ∧
        AgreeOn .dem started { opened with dem := started.dem }) ∧
      (unitOf .modEnd ≠ .reg ∧ (∃ t, exec .modEnd opened = .next t) ∧
        AgreeOn .mod opened { loaded with mod := opened.mod }) ∧
      (unitOf .sslClear ≠ .reg ∧ (∃ t, exec .sslClear loaded = .next t) ∧
        AgreeOn .ssl loaded { started with ssl := loaded.ssl }) :=
  ⟨⟨by decide, ⟨_, rfl⟩, rfl⟩, ⟨by decide, ⟨_, rfl⟩, rfl⟩, ⟨by decide, ⟨_, rfl⟩, rfl⟩⟩

theorem witness_UnitsInterleaveFreely : BlockUnit.dem ≠ .reg ∧ BlockUnit.mod ≠ .reg ∧ BlockUnit.ssl ≠ .reg := by
  decide

theorem witness_HostNeverFaultsBlock : State.reset.mod.mopen = false := rfl

theorem witness_SideInversion :
    1 ≤ 1 ∧ 0 ≤ 1 ∧ 3 < bitLenOfRate .bitlen4 ∧ 1 < bitLenOfRate .bitlen2 ∧ State.reset.mod.mopen = false := by decide

/-- A header with a valid signature, 512 bytes: the given bytes at 8 … 13 and at 18, 0 elsewhere. -/
def source (rev tracks sides kbpsLo kbpsHi lo : Byte) : List Byte :=
  hfeSignature ++ [rev, tracks, sides, 0#8, kbpsLo, kbpsHi, 0#8, 0#8, 0#8, 0#8, lo] ++ List.replicate 493 0#8

/-- A header that passes the checks before the track lengths: 125 kbit/s, the lookup table at block 1. -/
def goodHeader : List Byte := source 0#8 80#8 2#8 125#8 0#8 1#8

theorem goodHeader_length : goodHeader.length = 512 := by decide +kernel

/-- A source that begins with the good header passes validation when each track is long enough. -/
theorem goodHeader_passes {oob : OobRead} (rest : List Byte)
    (h : ∀ t, t < 80 → ∃ len, trackLen oob (goodHeader ++ rest) 1 t = .ok len ∧ 12500 ≤ len) :
    validateHfe oob (goodHeader ++ rest) = .ok (.bitlen2, 1) := by
  have hlen : (goodHeader ++ rest).length = 512 + rest.length := by rw [List.length_append, goodHeader_length]
  have hat : ∀ a, a < 512 → (goodHeader ++ rest)[a]? = goodHeader[a]? := fun a ha =>
    List.getElem?_append_left (by rw [goodHeader_length]; exact ha)
  have hb : ∀ a v, a < 512 → goodHeader[a]? = some v → srcByte oob (goodHeader ++ rest) a = .ok v := fun a v ha hv => by
    simp [srcByte, hat a ha, hv]
  have hsig : (goodHeader ++ rest).take 8 = hfeSignature := by
    rw [List.take_append_of_le_length (by rw [goodHeader_length]; decide)]
    rfl
  have h0 : ¬ ((goodHeader ++ rest).length < config.hfeBlock ∨
      (goodHeader ++ rest).take hfeSignature.length ≠ hfeSignature) := by
    rw [hlen]
    exact fun h => h.elim (fun h => absurd h (by simp)) (fun h => h hsig)
  have h1 : (goodHeader ++ rest)[8]? = some config.hfeRevision := by rw [hat 8 (by decide)]; rfl
  have h2 : ¬ ((goodHeader ++ rest)[9]? ≠ some (BitVec.ofNat 8 config.nTracks) ∨
      (goodHeader ++ rest)[10]? ≠ some (BitVec.ofNat 8 config.nSides)) := by
    rw [hat 9 (by decide), hat 10 (by decide)]
    exact fun h => h.elim (fun h => h rfl) (fun h => h rfl)
  have h3 : srcU16 oob (goodHeader ++ rest) 12 = .ok 125 :=
    srcU16_ok (hb 12 125#8 (by decide) rfl) (hb 13 0#8 (by decide) rfl)
  have h4 : lutBlock oob (goodHeader ++ rest) = .ok 1 :=
    srcU16_ok (hb 18 1#8 (by decide) rfl) (hb 19 0#8 (by decide) rfl)
  have h5 : checkTrackLens oob (goodHeader ++ rest) 1 .bitlen2 (List.range config.nTracks) = .ok () :=
    checkTrackLens_ok (fun t ht => h t (List.mem_range.mp ht))
  unfold validateHfe
  rw [if_neg h0, if_neg (by simp [h1]), if_neg h2]
  unfold checkRateAndTracks
  rw [h3]
  simp [rateOfBitrate, h4, h5]

/-- A lookup table of `n` equal entries. -/
def table (n : Nat) (a b c d : Byte) : List Byte := (List.replicate n [a, b, c, d]).flatten

theorem table_length (n : Nat) (a b c d : Byte) : (table n a b c d).length = 4 * n := by
  simp [table, List.length_flatten, Nat.mul_comm]

/-- The bytes of entry `t` of a table of equal entries. -/
theorem table_entry (n t : Nat) (a b c d : Byte) (h : t < n) :
    (table n a b c d)[4 * t]? = some a ∧ (table n a b c d)[4 * t + 1]? = some b ∧
      (table n a b c d)[4 * t + 2]? = some c ∧ (table n a b c d)[4 * t + 3]? = some d := by
  induction t generalizing n with
  | zero =>
    obtain ⟨n, rfl⟩ : ∃ m, n = m + 1 := ⟨n - 1, by omega⟩
    exact ⟨rfl, rfl, rfl, rfl⟩
  | succ t ih =>
    obtain ⟨n, rfl⟩ : ∃ m, n = m + 1 := ⟨n - 1, by omega⟩
    exact ih n (by omega)

/-- OFF and LEN of a track, read from a source whose block 1 begins with a table of equal entries. -/
theorem table_tracks (oob : OobRead) (rest : List Byte) (a b c d : Byte) (t : Nat) (h : t < 80) :
    trackBlock oob (goodHeader ++ (table 80 a b c d ++ rest)) 1 t = .ok (le16 a b) ∧
      trackLen oob (goodHeader ++ (table 80 a b c d ++ rest)) 1 t = .ok (le16 c d) := by
  have hb : ∀ k v, k < 320 → (table 80 a b c d)[k]? = some v →
      srcByte oob (goodHeader ++ (table 80 a b c d ++ rest)) (512 + k) = .ok v := fun k v hk hv => by
    have : (goodHeader ++ (table 80 a b c d ++ rest))[512 + k]? = some v := by
      rw [List.getElem?_append_right (by rw [goodHeader_length]; omega), goodHeader_length, Nat.add_sub_cancel_left,
        List.getElem?_append_left (by rw [table_length]; omega), hv]
    simp [srcByte, this]
  obtain ⟨ha, hb', hc, hd⟩ := table_entry 80 t a b c d h
  have e : lutEntry 1 t = 512 + 4 * t := by simp [lutEntry]
  unfold trackBlock trackLen
  rw [e]
  exact ⟨srcU16_ok (hb _ _ (by omega) ha) (hb _ _ (by omega) hb'),
    srcU16_ok (hb _ _ (by omega) hc) (hb _ _ (by omega) hd)⟩

/-- A source that passes validation: its lookup table lies past its end and reads as the fill byte 0xFF, so every
LEN is 65535. -/
theorem source_passes : validateHfe (.fill 0xFF#8) (goodHeader ++ []) = .ok (.bitlen2, 1) := by
  have hb : ∀ a, 512 ≤ a → srcByte (.fill 0xFF#8) (goodHeader ++ []) a = .ok 0xFF#8 := fun a ha => by
    have : (goodHeader ++ [])[a]? = none := List.getElem?_eq_none (by simpa [goodHeader_length] using ha)
    rw [srcByte, this]
  refine goodHeader_passes [] (fun t _ => ⟨65535, srcU16_ok (hb _ ?_) (hb _ ?_), by decide⟩) <;>
    simp [lutEntry] <;> omega

/-- 95_test_vectors.md H7: a source for each check, in order. -/
theorem witness_ValidationOrder :
    validateHfe .fault [] = .error .invalidSignature ∧
      validateHfe .fault (source 1#8 81#8 2#8 125#8 0#8 1#8) = .error .unsupportedRevision ∧
      validateHfe .fault (source 0#8 80#8 1#8 125#8 0#8 1#8) = .error .unsupportedGeometry ∧
      validateHfe .fault (source 0#8 80#8 2#8 0x2C#8 1#8 1#8) = .error .unsupportedBitrate ∧
      validateHfe (.fill 0x00#8) (source 0#8 80#8 2#8 250#8 0#8 1#8) = .error .malformedTrack :=
  by decide +kernel

theorem witness_ValidationOrder_clauses :
    let ok := source 0#8 80#8 2#8 125#8 0#8 1#8
    (512 ≤ ok.length ∧ ok.take 8 = hfeSignature) ∧ ok.getD 8 0#8 = 0#8 ∧
      (ok.getD 9 0#8 = 80#8 ∧ ok.getD 10 0#8 = 2#8) ∧
      (ok.getD 12 0#8).toNat + 256 * (ok.getD 13 0#8).toNat = 125 ∧
      (∃ len, trackLen (.fill 0xFF#8) ok 1 79 = .ok len ∧ 6250 * 2 ≤ len) ∧
      (∃ len, trackLen (.fill 0x00#8) ok 1 0 = .ok len ∧ len < 6250 * 2) :=
  ⟨by decide +kernel, by decide, by decide, by decide, ⟨65535, by decide +kernel⟩, ⟨0, by decide +kernel⟩⟩

theorem witness_ChooseMaskPolicy :
    State.reset.ssl.tbuf.wf ∧ (List.replicate 3125 0x00#8).length = 3125 :=
  ⟨Memory.wf_nil, List.length_replicate⟩

/-- Parameters of a run in each direction. -/
def toRdi : HostParams := { direction := .hfeToRdi, oobRead := .fill 0xFF#8, ifaceCode := 0#8, hdrOther := [] }
def toHfe : HostParams := { direction := .rdiToHfe, oobRead := .fault, ifaceCode := 7#8, hdrOther := [] }

theorem witness_HardFailureWritesNothing : (convert toRdi [] State.reset).result = .hard .invalidSignature := rfl

theorem witness_ImageSizes :
    toHfe.direction = .rdiToHfe ∧ (List.replicate 500000 0x06#8).length = 500000 ∧ State.reset.mod.mopen = false ∧
      toRdi.direction = .hfeToRdi ∧ toRdi.oobRead = .fill 0xFF#8 ∧
      validateHfe (.fill 0xFF#8) (goodHeader ++ []) = .ok (.bitlen2, 1) :=
  ⟨rfl, List.length_replicate, rfl, rfl, rfl, source_passes⟩

/-- A source whose 80 tracks all have OFF 0 and LEN 12504, long enough for every raw byte. -/
def wholeSource : List Byte :=
  goodHeader ++ (table 80 0x00#8 0x00#8 0xD8#8 0x30#8 ++ List.replicate 11818 0x55#8)

theorem witness_ImageSizes_whole :
    validateHfe .fault wholeSource = .ok (.bitlen2, 1) ∧
      ∀ t off, t < 80 → trackBlock .fault wholeSource 1 t = .ok off →
        512 * off + (if Rate.bitlen2 = .bitlen2 then 12650 else 25044) ≤ wholeSource.length := by
  refine ⟨goodHeader_passes _ (fun t ht => ⟨_, (table_tracks _ _ _ _ _ _ t ht).2, by decide⟩), fun t off ht h => ?_⟩
  have h' := (table_tracks .fault (List.replicate 11818 0x55#8) 0x00#8 0x00#8 0xD8#8 0x30#8 t ht).1
  have e : off = le16 0x00#8 0x00#8 := Except.ok.inj (h.symm.trans h')
  have hl : wholeSource.length = 12650 := by
    simp only [wholeSource, List.length_append, goodHeader_length, table_length, List.length_replicate]
  simp [e, hl, le16]

/-- A source whose tracks all have OFF and LEN 0x3131, and which ends before the tracks' data: it passes validation
under FAULT, and the first raw read fails. -/
def cutSource : List Byte := goodHeader ++ (table 80 0x31#8 0x31#8 0x31#8 0x31#8 ++ [])

/-- A run whose first raw byte, at 512 × 12593 + 256, lies past the source's end under FAULT. -/
theorem run_truncated {src : List Byte} (hv : validateHfe .fault src = .ok (.bitlen2, 1))
    (hb : trackBlock .fault src 1 0 = .ok 12593) (hl : src.length ≤ 6447872) :
    (convert { toRdi with oobRead := .fault } src State.reset).result = .hard .sourceTruncated := by
  have hr : srcByte .fault src 6447872 = .error .sourceTruncated := by
    rw [srcByte, List.getElem?_eq_none hl]
  obtain ⟨as, ha⟩ : ∃ as, rawAddresses .bitlen2 12593 0 = 6447872 :: as :=
    List.head?_eq_some_iff.mp (by decide +kernel)
  obtain ⟨ts, ht⟩ : ∃ ts, trackSides = (0, 0) :: ts := List.head?_eq_some_iff.mp (by decide +kernel)
  simp [convert, toRdi, hfeToRdi, hv, ht, decodeSides, decodeSide, hb, ha, srcBytes, hr]

theorem witness_ImageSizes_fault :
    validateHfe .fault cutSource = .ok (.bitlen2, 1) ∧
      (convert { toRdi with oobRead := .fault } cutSource State.reset).result = .hard .sourceTruncated := by
  have hv : validateHfe .fault cutSource = .ok (.bitlen2, 1) :=
    goodHeader_passes _ (fun t ht => ⟨_, (table_tracks _ _ _ _ _ _ t ht).2, by decide⟩)
  refine ⟨hv, run_truncated hv (table_tracks .fault _ _ _ _ _ 0 (by decide)).1 ?_⟩
  simp only [cutSource, List.length_append, goodHeader_length, table_length, List.length_nil]
  decide

theorem witness_SystemRoundTrip :
    toHfe.direction = .rdiToHfe ∧ toRdi.direction = .hfeToRdi ∧
      (List.replicate 500000 0x06#8).length = 500000 ∧ State.reset.mod.mopen = false :=
  ⟨rfl, rfl, List.length_replicate, rfl⟩

end Sys2Proof.Tests.Slice0
end

section
/-! SUPPORT. Each command as a relation on the block's record: the errors it raises (60_exceptions.md R242), the
response it gives and the record it leaves. `exec` and `step` are tied to the relations once, and what commands keep
and leave unchanged is read off them. -/

namespace Sys2Proof.Machine

open Sys2Proof

/-- REG_READ's value as a function of the record: the channels do not enter it (10_state.md R40). -/
def Block.register (b : Block) (reg : Byte) : Option (BitVec 32) := (State.mk b [] []).register reg

theorem State.register_eq_toBlock (s : State) (reg : Byte) : s.register reg = s.toBlock.register reg := rfl

/-- The rows of 60_exceptions.md R242 that depend on the state, and the reserved register numbers. -/
inductive Fails (b : Block) : Instr → ErrCode → Prop
  | demFeed {raw : Byte} (h : b.dem.dinit = false) : Fails b (.demFeed raw) .demNoInit
  | demFinish (h : b.dem.dinit = false) : Fails b .demFinish .demNoInit
  | modBegin (h : b.mod.mopen = true) : Fails b .modBegin .modSeq
  | modWord {sync : Bool} {data : Byte} (h : b.mod.mopen = false) : Fails b (.modWord sync data) .modSeq
  | modEnd (h : b.mod.mopen = false) : Fails b .modEnd .modSeq
  | sslLoad {data : Byte} (h : ¬ b.ssl.lptr.val < config.sideLen) : Fails b (.sslLoad data) .sslFull
  | sslLocate {la : Strategy} (h : b.ssl.lptr.val ≠ config.sideLen) : Fails b (.sslLocate la) .sslNotLoaded
  | regRead {reg : Byte} (h : b.register reg = none) : Fails b (.regRead reg) .illegal

/-- What a command does: the response it gives and the record it leaves, the errors as one case
(60_exceptions.md R241). -/
inductive Performs (b : Block) : Instr → Response → Block → Prop
  | fails {i : Instr} {c : ErrCode} (h : Fails b i c) : Performs b i (.error c) { b with errs := b.errs.record c }
  | demReset (rate : Rate) : Performs b (.demReset rate) .ack { b with dem := Dem.newTrack rate }
  | demFeed (raw : Byte) (h : b.dem.dinit = true) : Performs b (.demFeed raw) .ack { b with dem := b.dem.feed raw }
  | demFinish (h : b.dem.dinit = true) : Performs b .demFinish (.bytes b.dem.trackSide) b
  | modBegin (h : b.mod.mopen = false) : Performs b .modBegin .ack { b with mod := { mopen := true, mocnt := 0 } }
  | modWord (sync : Bool) (data : Byte) (h : b.mod.mopen = true) :
      Performs b (.modWord sync data) (.bytes (wordBytes (fmWord data sync)))
        { b with mod := { b.mod with mocnt := b.mod.countWord } }
  | modEnd (h : b.mod.mopen = true) :
      Performs b .modEnd (.bytes b.mod.pad) { b with mod := { b.mod with mopen := false } }
  | sslClear : Performs b .sslClear .ack { b with ssl := b.ssl.cleared }
  | sslLoad (data : Byte) (h : b.ssl.lptr.val < config.sideLen) :
      Performs b (.sslLoad data) .ack { b with ssl := b.ssl.load h data }
  | sslLocate (la : Strategy) (h : b.ssl.lptr.val = config.sideLen) :
      Performs b (.sslLocate la) (.locate (locateScan b.ssl.tbuf la).scount (locateScan b.ssl.tbuf la).mask)
        { b with ssl := b.ssl.store la (locateScan b.ssl.tbuf la) }
  | regRead {reg : Byte} {v : BitVec 32} (h : b.register reg = some v) : Performs b (.regRead reg) (.word v) b

variable {b b' : Block} {i : Instr} {r : Response} {c : ErrCode} {w : Word}

/-- A failing command raises its error. -/
theorem Fails.exec_eq (h : Fails b i c) (cs : List Word) (rs : List Response) :
    exec i ⟨b, cs, rs⟩ = .next (State.raise ⟨b, cs, rs⟩ c) := by
  cases h with
  | demFeed h => exact if_neg (by simp [h])
  | demFinish h => exact if_neg (by simp [h])
  | modBegin h => exact if_pos h
  | modWord h => exact if_neg (by simp [h])
  | modEnd h => exact if_neg (by simp [h])
  | sslLoad h => exact dif_neg h
  | sslLocate h => exact if_neg h
  | regRead h =>
    have h' := (State.register_eq_toBlock ⟨b, cs, rs⟩ _).trans h
    simp only [exec, execRegRead, h']

/-- Executing a command does what the relation says, whatever the channels hold. -/
theorem Performs.exec_eq (h : Performs b i r b') (cs : List Word) (rs : List Response) :
    exec i ⟨b, cs, rs⟩ = .next ⟨b', cs, rs ++ [r]⟩ := by
  cases h with
  | fails h => exact h.exec_eq cs rs
  | demReset rate => rfl
  | demFeed raw h => exact if_pos h
  | demFinish h => exact if_pos h
  | modBegin h => exact if_neg (by simp [h])
  | modWord sync data h => exact if_pos h
  | modEnd h => exact if_pos h
  | sslClear => rfl
  | sslLoad data h => exact dif_pos h
  | sslLocate la h => exact if_pos h
  | regRead h =>
    have h' := (State.register_eq_toBlock ⟨b, cs, rs⟩ _).trans h
    simp only [exec, execRegRead, h']
    rfl

/-- Every command does something in every state (60_exceptions.md R240). -/
theorem exists_performs (b : Block) (i : Instr) : ∃ r b', Performs b i r b' := by
  cases i with
  | demReset rate => exact ⟨_, _, .demReset rate⟩
  | demFeed raw =>
    cases h : b.dem.dinit
    · exact ⟨_, _, .fails (.demFeed h)⟩
    · exact ⟨_, _, .demFeed raw h⟩
  | demFinish =>
    cases h : b.dem.dinit
    · exact ⟨_, _, .fails (.demFinish h)⟩
    · exact ⟨_, _, .demFinish h⟩
  | modBegin =>
    cases h : b.mod.mopen
    · exact ⟨_, _, .modBegin h⟩
    · exact ⟨_, _, .fails (.modBegin h)⟩
  | modWord sync data =>
    cases h : b.mod.mopen
    · exact ⟨_, _, .fails (.modWord h)⟩
    · exact ⟨_, _, .modWord sync data h⟩
  | modEnd =>
    cases h : b.mod.mopen
    · exact ⟨_, _, .fails (.modEnd h)⟩
    · exact ⟨_, _, .modEnd h⟩
  | sslClear => exact ⟨_, _, .sslClear⟩
  | sslLoad data =>
    by_cases h : b.ssl.lptr.val < config.sideLen
    · exact ⟨_, _, .sslLoad data h⟩
    · exact ⟨_, _, .fails (.sslLoad h)⟩
  | sslLocate la =>
    by_cases h : b.ssl.lptr.val = config.sideLen
    · exact ⟨_, _, .sslLocate la h⟩
    · exact ⟨_, _, .fails (.sslLocate h)⟩
  | regRead reg =>
    cases h : b.register reg with
    | none => exact ⟨_, _, .fails (.regRead h)⟩
    | some v => exact ⟨_, _, .regRead h⟩

/-- What the block does with a command word: the command it decodes to, or E_ILLEGAL for an illegal word
(30_encoding.md R84, 60_exceptions.md R243). -/
inductive Answers (b : Block) (w : Word) : Response → Block → Prop
  | performs {i : Instr} {r : Response} {b' : Block} (hd : decode w = .ok i) (h : Performs b i r b') : Answers b w r b'
  | illegal {e : IllegalWord} (hd : decode w = .error e) :
      Answers b w (.error .illegal) { b with errs := b.errs.record .illegal }

theorem exists_answers (b : Block) (w : Word) : ∃ r b', Answers b w r b' := by
  cases hd : decode w with
  | error e => exact ⟨_, _, .illegal hd⟩
  | ok i =>
    obtain ⟨r, b', h⟩ := exists_performs b i
    exact ⟨r, b', .performs hd h⟩

/-- A step takes the oldest word and answers it, whatever the channels hold (log entry 1). -/
theorem Answers.step_eq (h : Answers b w r b') (rest : List Word) (rs : List Response) :
    step ⟨b, w :: rest, rs⟩ = .next ⟨b', rest, rs ++ [r]⟩ := by
  cases h with
  | performs hd h => simpa [step, State.takeCommand, hd] using h.exec_eq rest rs
  | illegal hd => simp [step, State.takeCommand, hd, State.raise]

theorem step_of_idle {s : State} (h : s.cmds = []) : step s = .next s := by
  simp [step, State.takeCommand, h]

/-- A step is idle, or takes the oldest word and answers it. -/
theorem step_eq_next_cases {s t : State} (h : step s = .next t) :
    (s.cmds = [] ∧ t = s) ∨
      ∃ w r, s.cmds = w :: t.cmds ∧ t.resps = s.resps ++ [r] ∧ Answers s.toBlock w r t.toBlock := by
  obtain ⟨b, cs, rs⟩ := s
  cases cs with
  | nil => cases h; exact .inl ⟨rfl, rfl⟩
  | cons w rest =>
    obtain ⟨r, b', ha⟩ := exists_answers b w
    have ht : Host.Outcome.next ⟨b', rest, rs ++ [r]⟩ = .next t := (ha.step_eq rest rs).symm.trans h
    cases ht
    exact .inr ⟨w, r, rfl, rfl, ha⟩

end Sys2Proof.Machine
end

section
/-! SUPPORT. What a step does to the error state (10_state.md R38, R39). -/

namespace Sys2Proof.Machine

open Sys2Proof

variable {b b' : Block} {i : Instr} {r : Response} {w : Word}

/-- A command records the error it responds, and without one leaves the error state alone. -/
theorem Performs.errs_cases (h : Performs b i r b') :
    (∃ c, r = .error c ∧ b'.errs = b.errs.record c) ∨ ((∀ c, r ≠ .error c) ∧ b'.errs = b.errs) := by
  cases h with
  | @fails _ c _ => exact .inl ⟨c, rfl, rfl⟩
  | _ => exact .inr ⟨nofun, rfl⟩

/-- The same for any command word, legal or not. -/
theorem Answers.errs_cases (h : Answers b w r b') :
    (∃ c, r = .error c ∧ b'.errs = b.errs.record c) ∨ ((∀ c, r ≠ .error c) ∧ b'.errs = b.errs) := by
  cases h with
  | performs _ h => exact h.errs_cases
  | illegal _ => exact .inl ⟨_, rfl, rfl⟩

/-- A step records the error it responds, if it responds one. -/
theorem step_errs_cases {s t : State} (h : step s = .next t) :
    (∃ c, t.resps = s.resps ++ [.error c] ∧ t.errs = s.errs.record c) ∨
      ((∀ c, t.resps ≠ s.resps ++ [.error c]) ∧ t.errs = s.errs) := by
  rcases step_eq_next_cases h with ⟨-, rfl⟩ | ⟨w, r, -, hr, ha⟩
  · exact .inr ⟨fun c => by simp, rfl⟩
  · rcases ha.errs_cases with ⟨c, rfl, he⟩ | ⟨hne, he⟩
    · exact .inl ⟨c, hr, he⟩
    · exact .inr ⟨fun c => by simpa [hr] using hne c, he⟩

end Sys2Proof.Machine
end

section
open Sys2Proof Sys2Proof.Machine

/-- Settles O12: a step either records the one error it responds or leaves the error state alone. -/
theorem firstErrorIsKept : Obligations.FirstErrorIsKept := by
  refine ⟨fun s t h => ?_, rfl, rfl⟩
  rcases step_errs_cases h with ⟨c, hr, he⟩ | ⟨hne, he⟩
  · rcases s.errs.record_cases c with ⟨h1, hc⟩ | ⟨h0, hc⟩
    · exact ⟨fun _ => he.trans hc, fun h0 => by simp [h1] at h0⟩
    · rw [he, hc]
      refine ⟨fun h1 => by simp [h0] at h1, fun _ => ⟨by simp [hr], fun c' hr' => ?_, nofun⟩⟩
      have hcc : c = c' := by simpa [hr] using hr'
      rw [hcc]
  · rw [he]
    refine ⟨fun _ => rfl, fun h0 => ⟨?_, fun c hc => absurd hc (hne c), fun h1 _ => h1⟩⟩
    simp [h0, hne]

/-- Settles O60: what the block answers to a word is a function of the record, whatever the channels hold. -/
theorem blockRecordDeterminesStep : Obligations.BlockRecordDeterminesStep := by
  rintro ⟨b, _, rs⟩ ⟨_, _, rs'⟩ w rest rest' rfl rfl rfl
  obtain ⟨r, b', h⟩ := exists_answers b w
  exact ⟨_, _, r, h.step_eq rest rs, h.step_eq rest' rs', rfl, rfl, rfl, rfl, rfl⟩

/-- Settles O15, unit by unit: nothing emitted, counted, loaded, scanned or recorded yet. -/
theorem resetMeetsInv : Obligations.ResetMeetsInv :=
  ⟨⟨Nat.zero_le _, fun _ => rfl⟩, rfl, ⟨Memory.wf_nil, fun _ => ⟨rfl, rfl, rfl, rfl, rfl⟩, nofun⟩,
    .inl ⟨rfl, rfl⟩⟩
end

section
/-! SUPPORT. How far a scan goes (42_sector_locator.md R158 … R163). -/

namespace Sys2Proof.Machine

open Sys2Proof

theorem lengthField_le (t : Memory) (c : Nat) : lengthField t c ≤ 65535 := by
  have hl := (t.read c).isLt
  have hh := (t.read (c + 1)).isLt
  unfold lengthField le16
  omega

/-- A run that FindPat found ends inside the side. -/
theorem markRun_le_of_findPat {t : Memory} {m : Mask} {c w p : Nat}
    (h : findPat t c w config.runPat = some p) : (markRun t m (c + p)).2 ≤ 3125 := by
  have hp : c + p + 3 ≤ min (c + w) 3125 := (findPat_some h).2.1
  exact (markRun_end t m (by omega)).2

/-- MARK_B lies inside the side, and the cursor goes just past its two bytes. -/
theorem sectorStep4_cursor_le (t : Memory) (m : Mask) (c : Nat) : (sectorStep4 t m c).cursor ≤ max c 3125 := by
  unfold sectorStep4
  split
  · exact Nat.le_max_left ..
  · rename_i p h
    have hp : c + p + 2 ≤ min (c + 20) 3125 := (findPat_some h).2.1
    simp only
    omega

theorem sectorStep3_cursor_le (t : Memory) (m : Mask) (c : Nat) : (sectorStep3 t m c).cursor ≤ max c 3125 := by
  unfold sectorStep3
  split
  · exact Nat.le_max_left ..
  · rename_i p h
    have hr := markRun_le_of_findPat (m := m) h
    have hc := sectorStep4_cursor_le t (markRun t m (c + p)).1 (markRun t m (c + p)).2
    omega

/-- Step 2 goes 7 past the offset of MARK_A's two bytes, so at most 5 past the side's end. -/
theorem sectorStep2_cursor_le (t : Memory) (m : Mask) (c : Nat) : (sectorStep2 t m c).cursor ≤ max c 3130 := by
  unfold sectorStep2
  split
  · exact Nat.le_max_left ..
  · rename_i p h
    have hp : c + p + 2 ≤ min (c + 10) 3125 := (findPat_some h).2.1
    have hs : config.skipA = 7 := rfl
    have hc := sectorStep3_cursor_le t m (c + p + config.skipA)
    omega

theorem sectorStep1_cursor_le (t : Memory) (m : Mask) (c : Nat) : (sectorStep1 t m c).cursor ≤ max c 3130 := by
  unfold sectorStep1
  split
  · exact Nat.le_max_left ..
  · rename_i p h
    have hr := markRun_le_of_findPat (m := m) h
    have hc := sectorStep2_cursor_le t (markRun t m (c + p)).1 (markRun t m (c + p)).2
    omega

/-- The payload skip reaches the greatest cursor from 3123, the last index with two bytes left (R161). -/
theorem payloadSkip_le {t : Memory} {la : Strategy} {c c' : Nat} (h : payloadSkip t la c = some c')
    (hc : c ≤ 3130) : c' ≤ 68688 := by
  have hl := lengthField_le t c
  rcases payloadSkip_some h with ⟨-, rfl⟩ | ⟨-, hlt, rfl⟩ <;> omega

/-- From the head of any sector that a scan can reach, with `k` sectors still to find. -/
theorem scanFrom_bounds (t : Memory) (la : Strategy) (k : Nat) (m : Mask) (n c : Nat) (hc : c ≤ 68688) :
    (scanFrom t la k m n c).count ≤ n + k ∧ (scanFrom t la k m n c).cursor ≤ 68688 := by
  induction k generalizing m n c with
  | zero => exact ⟨Nat.le_refl n, hc⟩
  | succ k ih =>
    have hs := sectorStep1_cursor_le t m c
    rcases scanFrom_cases t la k m n c with
      ⟨-, he⟩ | ⟨hlt, ⟨why, -, he⟩ | ⟨-, ⟨-, he⟩ | ⟨-, he⟩ | ⟨c', hp, he⟩⟩⟩
    all_goals rw [he]
    case succ.inr.inr.inr.inr =>
      have := ih (sectorStep1 t m c).mask (n + 1) c' (payloadSkip_le hp (by omega))
      omega
    all_goals exact ⟨by simp only; omega, by simp only; omega⟩

theorem locateScan_count_le (t : Memory) (la : Strategy) : (locateScan t la).count ≤ 5 := by
  have h := (scanFrom_bounds t la 5 0#config.sideLen 0 0 (by omega)).1
  simpa [locateScan] using h

theorem locateScan_cursor_le (t : Memory) (la : Strategy) : (locateScan t la).cursor ≤ 68688 :=
  (scanFrom_bounds t la 5 0#config.sideLen 0 0 (by omega)).2

/-- SCOUNT holds what the scan found, nothing cut off (10_state.md R33). -/
theorem Scan.scount_val {r : Scan} (h : r.count ≤ 5) : r.scount.val = r.count :=
  Nat.mod_eq_of_lt (Nat.lt_succ_of_le h)

/-- A number below 2^32 is held with no bit lost. -/
theorem word32_toNat {n : Nat} (h : n < 2 ^ 32) : (word32 n).toNat = n := by
  simpa [word32] using h

end Sys2Proof.Machine
end

section
open Sys2Proof Sys2Proof.Machine

/-- Settles O40, by induction on the sectors still to find. -/
theorem scanBounds : Obligations.ScanBounds := fun t la => ⟨locateScan_count_le t la, locateScan_cursor_le t la⟩
end

section
/-! SUPPORT. Every operation on a unit keeps the unit's legal states, and so every command keeps the invariant. -/

namespace Sys2Proof.Machine

open Sys2Proof

theorem Dem.legal_newTrack (rate : Rate) : (Dem.newTrack rate).Legal := ⟨Nat.zero_le _, nofun⟩

theorem Dem.cellStep_obuf_length_le {d : Dem} (h : d.obuf.length ≤ 3125) (b : Bool) :
    (d.cellStep b).obuf.length ≤ 3125 := by
  simp only [Dem.cellStep, Dem.finishCell]
  split
  · exact emitByte_length_le h _
  · exact h

theorem Dem.Legal.feed {d : Dem} (h : d.Legal) (hi : d.dinit = true) (raw : Byte) : (d.feed raw).Legal :=
  ⟨Dem.foldl_cellStep_keeps (fun x => x.obuf.length ≤ 3125) (fun _ b h => Dem.cellStep_obuf_length_le h b) _ d h.1,
    fun h0 => by simp [hi] at h0⟩

theorem Mod.Legal.countWord {m : Mod} (h : m.Legal) : { m with mocnt := m.countWord }.Legal := by
  have hv := m.countWord_val
  simp only [Mod.Legal] at h ⊢
  omega

theorem Ssl.Legal.cleared {l : Ssl} (h : l.Legal) : l.cleared.Legal :=
  ⟨h.1, fun _ => ⟨rfl, rfl, rfl, rfl, rfl⟩, nofun⟩

/-- A load below 3125 finds no results, since results need a full TBUF, and leaves none. -/
theorem Ssl.Legal.load {l : Ssl} (h : l.Legal) (hl : l.lptr.val < config.sideLen) (v : Byte) : (l.load hl v).Legal := by
  obtain ⟨hwf, hno, hres⟩ := h
  refine ⟨Memory.wf_write hwf hl v, hno, fun hv => ?_⟩
  exact absurd (hres hv).1 (Nat.ne_of_lt hl)

theorem Ssl.Legal.store_locateScan {l : Ssl} (h : l.Legal) (hl : l.lptr.val = config.sideLen) (la : Strategy) :
    (l.store la (locateScan l.tbuf la)).Legal := by
  have hc := locateScan_cursor_le l.tbuf la
  exact ⟨h.1, nofun, fun _ =>
    ⟨hl, rfl, Scan.scount_val (locateScan_count_le l.tbuf la), word32_toNat (by omega), rfl⟩⟩

theorem ErrCode.code_range (c : ErrCode) : 1 ≤ c.code.toNat ∧ c.code.toNat ≤ 5 := by
  cases c <;> decide

theorem Errs.Legal.record {e : Errs} (h : e.Legal) (c : ErrCode) : (e.record c).Legal := by
  rcases e.record_cases c with ⟨-, hr⟩ | ⟨-, hr⟩
  · rwa [hr]
  · rw [hr]
    exact .inr ⟨rfl, c.code_range⟩

/-- The invariant as a property of the record: the channels do not enter it. -/
def Block.Inv (b : Block) : Prop := b.dem.Legal ∧ b.mod.Legal ∧ b.ssl.Legal ∧ b.errs.Legal

theorem State.inv_iff_toBlock (s : State) : s.Inv ↔ s.toBlock.Inv := Iff.rfl

variable {b b' : Block} {i : Instr} {r : Response} {w : Word}

/-- Each command writes one unit, by one of the operations above. -/
theorem Performs.keeps_inv (h : Performs b i r b') (hi : b.Inv) : b'.Inv := by
  obtain ⟨hd, hm, hl, he⟩ := hi
  cases h with
  | fails _ => exact ⟨hd, hm, hl, he.record _⟩
  | demReset rate => exact ⟨Dem.legal_newTrack rate, hm, hl, he⟩
  | demFeed raw h => exact ⟨hd.feed h raw, hm, hl, he⟩
  | demFinish _ => exact ⟨hd, hm, hl, he⟩
  | modBegin _ => exact ⟨hd, rfl, hl, he⟩
  | modWord _ _ _ => exact ⟨hd, hm.countWord, hl, he⟩
  | modEnd _ => exact ⟨hd, hm, hl, he⟩
  | sslClear => exact ⟨hd, hm, hl.cleared, he⟩
  | sslLoad v h => exact ⟨hd, hm, hl.load h v, he⟩
  | sslLocate la h => exact ⟨hd, hm, hl.store_locateScan h la, he⟩
  | regRead _ => exact ⟨hd, hm, hl, he⟩

theorem Answers.keeps_inv (h : Answers b w r b') (hi : b.Inv) : b'.Inv := by
  cases h with
  | performs _ h => exact h.keeps_inv hi
  | illegal _ =>
    obtain ⟨hd, hm, hl, he⟩ := hi
    exact ⟨hd, hm, hl, he.record _⟩

end Sys2Proof.Machine
end

section
open Sys2Proof Sys2Proof.Machine

/-- Settles O16: an idle step keeps the state, and every answer to a word keeps the invariant of the record. -/
theorem stepKeepsInv : Obligations.StepKeepsInv := by
  intro s t hs h
  rcases step_eq_next_cases h with ⟨-, rfl⟩ | ⟨w, r, -, -, ha⟩
  · exact hs
  · exact t.inv_iff_toBlock.mpr (ha.keeps_inv (s.inv_iff_toBlock.mp hs))
end

section
/-! SUPPORT. The registers as numbers, and their legal columns (10_state.md R40). -/

namespace Sys2Proof.Machine

open Sys2Proof

theorem bit32_toNat (x : Bool) : (bit32 x).toNat = x.toNat := by cases x <;> rfl

theorem zext32_toNat (x : Byte) : (zext32 x).toNat = x.toNat := BitVec.toNat_setWidth_of_le (by decide)

theorem StopReason.code_le (r : StopReason) : r.code ≤ 7 := by cases r <;> decide

/-- DSTAT's fields lie side by side: BCNT at bit 4, STEP2 at 2, PHASE at 1, DINIT at 0. -/
theorem Dem.dstat_toNat (d : Dem) :
    d.dstat.toNat = 16 * d.bcnt.val + 4 * d.step.bit.toNat + 2 * d.phase.bit.toNat + d.dinit.toNat := by
  have pack : ∀ (n : Fin 8) (x y z : Bool),
      (word32 n.val <<< 4 ||| bit32 x <<< 2 ||| bit32 y <<< 1 ||| bit32 z).toNat =
        16 * n.val + 4 * x.toNat + 2 * y.toNat + z.toNat := by decide
  exact pack d.bcnt d.step.bit d.phase.bit d.dinit

/-- SRES's fields lie side by side: SSTOP at bit 5, SSTRAT at 4, SCOUNT at 1, RVALID at 0. -/
theorem Ssl.sres_toNat (l : Ssl) :
    l.sres.toNat = 32 * l.sstop.code + 16 * (strategyBit l.sstrat).toNat + 2 * l.scount.val + l.rvalid.toNat := by
  have pack : ∀ (n : Fin 8) (x : Bool) (k : Fin 6) (z : Bool),
      (word32 n.val <<< 5 ||| bit32 x <<< 4 ||| word32 k.val <<< 1 ||| bit32 z).toNat =
        32 * n.val + 16 * x.toNat + 2 * k.val + z.toNat := by decide
  exact pack ⟨l.sstop.code, Nat.lt_succ_of_le l.sstop.code_le⟩ (strategyBit l.sstrat) l.scount l.rvalid

/-- ESTAT's fields lie side by side: ECODE at bit 4, ERR at 0. -/
theorem Errs.estat_toNat (e : Errs) : e.estat.toNat = 16 * e.ecode.toNat + e.err.toNat := by
  have pack : ∀ (k : Fin 16) (z : Bool),
      (zext32 (BitVec.ofFin (w := 4) k) <<< 4 ||| bit32 z).toNat = 16 * k.val + z.toNat := by decide
  exact pack e.ecode.toFin e.err

/-- DSTAT has seven bits, of which bit 3 is not listed. -/
theorem Dem.dstat_legal (d : Dem) : d.dstat.toNat < 128 ∧ d.dstat.getLsbD 3 = false := by
  have hbcnt := d.bcnt_lt
  have hstep := Bool.toNat_le d.step.bit
  have hphase := Bool.toNat_le d.phase.bit
  have hdinit := Bool.toNat_le d.dinit
  rw [BitVec.getLsbD, Nat.testBit_eq_decide_div_mod_eq, decide_eq_false_iff_not, d.dstat_toNat]
  omega

theorem Dem.Legal.dolen_le {d : Dem} (h : d.Legal) : d.dolen.toNat ≤ 3125 := by
  have ho : d.obuf.length ≤ 3125 := h.1
  exact (word32_toNat (by omega)).trans_le ho

theorem Mod.mocnt_toNat (m : Mod) : (word32 m.mocnt.val).toNat = m.mocnt.val :=
  word32_toNat (by have := m.mocnt_le; omega)

theorem Ssl.lptr_toNat (l : Ssl) : (word32 l.lptr.val).toNat = l.lptr.val :=
  word32_toNat (by have := l.lptr_le; omega)

theorem Ssl.sres_legal (l : Ssl) : l.sres.toNat < 256 ∧ l.sres.toNat / 2 % 8 ≤ 5 := by
  have hstop := l.sstop.code_le
  have hstrat := Bool.toNat_le (strategyBit l.sstrat)
  have hcount := l.scount_le
  have hvalid := Bool.toNat_le l.rvalid
  rw [l.sres_toNat]
  omega

/-- SCUR is 0 without results, and else the cursor of a scan. -/
theorem Ssl.Legal.scur_le {l : Ssl} (h : l.Legal) : l.scur.toNat ≤ 68688 := by
  obtain ⟨-, hno, hres⟩ := h
  cases hv : l.rvalid with
  | false =>
    obtain ⟨-, -, hs, -, -⟩ := hno hv
    simp [hs]
  | true =>
    obtain ⟨-, -, -, hs, -⟩ := hres hv
    exact hs ▸ locateScan_cursor_le _ _

theorem Errs.Legal.estat_legal {e : Errs} (h : e.Legal) : e.estat.toNat % 16 ≤ 1 ∧ e.estat.toNat / 16 ≤ 5 := by
  have herr := Bool.toNat_le e.err
  have hcode : e.ecode.toNat ≤ 5 := by
    rcases h with ⟨-, h⟩ | ⟨-, -, h⟩
    · simp [h]
    · exact h
  rw [e.estat_toNat]
  omega

/-- The ten registers by number, 0 for a reserved number (10_state.md R40). -/
def Block.registerValue (b : Block) (k : Nat) : BitVec 32 := (b.register (BitVec.ofNat 8 k)).getD 0

theorem Block.register_of_lt (b : Block) {k : Nat} (h : k < 10) :
    b.register (BitVec.ofNat 8 k) = some (b.registerValue k) := by
  interval_cases k <;> rfl

end Sys2Proof.Machine
end

section
open Sys2Proof Sys2Proof.Machine

/-- Settles O17, register by register: DSTAT, SRES and ESTAT from their fields' places, SCUR from the bound on a
scan's cursor, the others from the ranges of their fields. -/
theorem registersReadLegalValues : Obligations.RegistersReadLegalValues := by
  rintro s ⟨hd, hm, hl, he⟩
  have dacc := (zext32_toNat s.dem.dacc).trans_lt s.dem.dacc.isLt
  have sacc := (zext32_toNat s.dem.sacc).trans_lt s.dem.sacc.isLt
  have mstat := (bit32_toNat s.mod.mopen).trans_le (Bool.toNat_le _)
  have mocnt := s.mod.mocnt_toNat
  have lptr := s.ssl.lptr_toNat.trans_le s.ssl.lptr_le
  refine ⟨s.toBlock.registerValue, fun k hk =>
    (Performs.regRead (s.toBlock.register_of_lt hk)).exec_eq s.cmds s.resps, ?_⟩
  exact ⟨s.dem.dstat_legal.1, s.dem.dstat_legal.2, dacc, sacc, hd.dolen_le, mstat,
    ⟨mocnt.trans_le s.mod.mocnt_le, (congrArg (· % 2) mocnt).trans hm⟩, lptr, s.ssl.sres_legal, hl.scur_le,
    he.estat_legal⟩
end

section
/-! SUPPORT. Two blocks that differ only in TBUF bytes not loaded since SSL_CLEAR (10_state.md R47): every command
answers them alike and leaves them so. -/

namespace Sys2Proof.Machine

open Sys2Proof

/-- The canonical form lists no index of 3125 or more. -/
theorem Memory.read_of_ge {m : Memory} (h : m.wf) {a : Nat} (ha : 3125 ≤ a) : m.read a = Memory.unlisted := by
  induction m with
  | nil => rfl
  | cons c m ih =>
    have hc : c.1 < 3125 := (h.2 c (List.mem_cons_self ..)).1
    have hne : a ≠ c.1 := by omega
    simpa [Memory.read, hne] using ih (Memory.wf_tail h)

/-- The block with another TBUF. -/
def Block.withTbuf (b : Block) (m : Memory) : Block := { b with ssl := { b.ssl with tbuf := m } }

/-- `m` is a canonical TBUF that holds the same loaded bytes. -/
def Ssl.LoadedAlike (l : Ssl) (m : Memory) : Prop :=
  l.tbuf.wf ∧ m.wf ∧ ∀ a, a < l.lptr.val → l.tbuf.read a = m.read a

/-- The relation of the obligation, on canonical TBUFs, in terms of the two definitions above. -/
theorem sameButUnloaded_iff {s t : State} (hs : s.ssl.tbuf.wf) (ht : t.ssl.tbuf.wf) :
    SameButUnloaded s t ↔
      t = ⟨s.toBlock.withTbuf t.ssl.tbuf, s.cmds, s.resps⟩ ∧ s.ssl.LoadedAlike t.ssl.tbuf :=
  ⟨fun ⟨he, hr⟩ => ⟨he, hs, ht, hr⟩, fun ⟨he, _, _, hr⟩ => ⟨he, hr⟩⟩

/-- A full TBUF is loaded whole. -/
theorem Ssl.LoadedAlike.eq_of_full {l : Ssl} {m : Memory} (h : l.LoadedAlike m) (hl : l.lptr.val = config.sideLen) :
    m = l.tbuf := by
  obtain ⟨hl', hm, hr⟩ := h
  refine (Memory.eq_of_read hl' hm fun a => ?_).symm
  by_cases ha : a < l.lptr.val
  · exact hr a ha
  · have ha' : 3125 ≤ a := hl.ge.trans (Nat.le_of_not_lt ha)
    rw [Memory.read_of_ge hl' ha', Memory.read_of_ge hm ha']

theorem Ssl.LoadedAlike.cleared {l : Ssl} {m : Memory} (h : l.LoadedAlike m) : l.cleared.LoadedAlike m := by
  obtain ⟨hl, hm, -⟩ := h
  exact ⟨hl, hm, nofun⟩

/-- A load writes the same byte at LPTR, which is then the only index newly loaded. -/
theorem Ssl.LoadedAlike.load {l : Ssl} {m : Memory} (h : l.LoadedAlike m) (hl : l.lptr.val < config.sideLen)
    (v : Byte) : (l.load hl v).LoadedAlike (m.write l.lptr.val v) := by
  obtain ⟨hl', hm, hr⟩ := h
  refine ⟨Memory.wf_write hl' hl v, Memory.wf_write hm hl v, fun a ha => ?_⟩
  have ha' : a < l.lptr.val + 1 := ha
  simp only [Ssl.load, Memory.read_write hl'.1, Memory.read_write hm.1]
  split
  · rfl
  · exact hr a (by omega)

variable {b b' : Block} {i : Instr} {r : Response} {c : ErrCode} {w : Word} {m : Memory}

/-- No error condition looks at TBUF. -/
theorem Fails.withTbuf (h : Fails b i c) (m : Memory) : Fails (b.withTbuf m) i c := by
  cases h with
  | demFeed h => exact .demFeed h
  | demFinish h => exact .demFinish h
  | modBegin h => exact .modBegin h
  | modWord h => exact .modWord h
  | modEnd h => exact .modEnd h
  | sslLoad h => exact .sslLoad h
  | sslLocate h => exact .sslLocate h
  | regRead h => exact .regRead h

/-- Only SSL_LOAD writes TBUF and only SSL_LOCATE reads it, when it is full. -/
theorem Performs.withTbuf (h : Performs b i r b') (hm : b.ssl.LoadedAlike m) :
    ∃ m', Performs (b.withTbuf m) i r (b'.withTbuf m') ∧ b'.ssl.LoadedAlike m' := by
  cases h with
  | fails h => exact ⟨m, .fails (h.withTbuf m), hm⟩
  | demReset rate => exact ⟨m, .demReset rate, hm⟩
  | demFeed raw h => exact ⟨m, .demFeed raw h, hm⟩
  | demFinish h => exact ⟨m, .demFinish h, hm⟩
  | modBegin h => exact ⟨m, .modBegin h, hm⟩
  | modWord sync data h => exact ⟨m, .modWord sync data h, hm⟩
  | modEnd h => exact ⟨m, .modEnd h, hm⟩
  | sslClear => exact ⟨m, .sslClear, hm.cleared⟩
  | sslLoad data h => exact ⟨m.write b.ssl.lptr.val data, .sslLoad (b := b.withTbuf m) data h, hm.load h data⟩
  | sslLocate la h =>
    obtain rfl := hm.eq_of_full h
    exact ⟨_, .sslLocate la h, hm⟩
  | regRead h => exact ⟨m, .regRead h, hm⟩

theorem Answers.withTbuf (h : Answers b w r b') (hm : b.ssl.LoadedAlike m) :
    ∃ m', Answers (b.withTbuf m) w r (b'.withTbuf m') ∧ b'.ssl.LoadedAlike m' := by
  cases h with
  | performs hd h =>
    obtain ⟨m', h', hm'⟩ := h.withTbuf hm
    exact ⟨m', .performs hd h', hm'⟩
  | illegal hd => exact ⟨m, .illegal hd, hm⟩

end Sys2Proof.Machine
end

section
open Sys2Proof Sys2Proof.Machine

/-- Settles O47: whatever the block answers in the one state, it answers in the other, and they stay alike. -/
theorem stepHidesUnloadedTbuf : Obligations.StepHidesUnloadedTbuf := by
  intro s t s' hst hs ht h
  obtain ⟨he, hm⟩ := (sameButUnloaded_iff hs ht).mp hst
  rcases step_eq_next_cases h with ⟨hc, rfl⟩ | ⟨w, r, hc, hr, ha⟩
  · have hidle : t.cmds = [] := by rw [he, hc]
    exact ⟨t, step_of_idle hidle, hst, hs, ht⟩
  · obtain ⟨m', ha', hm'⟩ := ha.withTbuf hm
    have hstep : step t = .next ⟨s'.toBlock.withTbuf m', s'.cmds, s'.resps⟩ := by
      rw [he, hc, hr]
      exact ha'.step_eq s'.cmds s.resps
    exact ⟨_, hstep, (sameButUnloaded_iff hm'.1 hm'.2.1).mpr ⟨rfl, hm'⟩, hm'.1, hm'.2.1⟩
end

section
/-! SUPPORT. A command word seen byte by byte, and decoding the word of a command (30_encoding.md R80 … R84). -/

namespace Sys2Proof

open Sys2Proof.Machine

theorem highByte_append_lowByte (w : Word) : highByte w ++ lowByte w = w :=
  BitVec.extractLsb'_append_extractLsb' (w := 8) (len := 8)

theorem word_eq_iff (w v : Word) : w = v ↔ highByte w = highByte v ∧ lowByte w = lowByte v := by
  refine ⟨fun h => h ▸ ⟨rfl, rfl⟩, fun ⟨hh, hl⟩ => ?_⟩
  rw [← highByte_append_lowByte w, ← highByte_append_lowByte v, hh, hl]

theorem Command.highByte_toWord (c : Command) : highByte c.toWord = c.op ++ c.rsv ++ BitVec.ofBool c.f :=
  BitVec.extractLsb'_append_eq_left

theorem Command.lowByte_toWord (c : Command) : lowByte c.toWord = c.d := BitVec.extractLsb'_append_eq_right

theorem Command.getElem_toWord (c : Command) : c.toWord[8] = c.f := by
  have h : c.toWord[8] = (highByte c.toWord)[0] := by simp [highByte]
  rw [h, c.highByte_toWord, BitVec.getElem_append]
  cases c.f <;> rfl

/-- A row looks at the high byte, with OP, RSV and F, and at the low byte, which is D, apart. -/
theorem OpcodeRow.selects_toWord (row : OpcodeRow) (c : Command) :
    row.selects c.toWord =
      ((c.op ++ c.rsv ++ BitVec.ofBool c.f &&& highByte row.mask == highByte row.pattern) &&
        (c.d &&& lowByte row.mask == lowByte row.pattern)) := by
  rw [Bool.eq_iff_iff, OpcodeRow.selects, beq_iff_eq, word_eq_iff, Bool.and_eq_true, beq_iff_eq, beq_iff_eq,
    ← c.highByte_toWord, ← c.lowByte_toWord]
  simp only [highByte, lowByte, BitVec.extractLsb'_and]

/-- A command's word decodes to the command. Where D is an operand, the row that is selected has a low mask of 0,
and every row before it differs in the high byte. -/
theorem decode_encode (i : Instr) : decode (encode i) = .ok i := by
  have low (c : Command) : c.toWord.extractLsb' 0 8 = c.d := c.lowByte_toWord
  cases i with
  | demReset rate => cases rate <;> rfl
  | demFeed raw =>
    simp [decode, encode, Instr.command, opcodeRows, OpcodeRow.selects_toWord, highByte, lowByte, low]
  | demFinish => rfl
  | modBegin => rfl
  | modWord sync data =>
    cases sync <;> simp [decode, encode, Instr.command, opcodeRows, OpcodeRow.selects_toWord, highByte, lowByte, low,
      Command.getElem_toWord]
  | modEnd => rfl
  | sslClear => rfl
  | sslLoad data =>
    simp [decode, encode, Instr.command, opcodeRows, OpcodeRow.selects_toWord, highByte, lowByte, low]
  | sslLocate la => cases la <;> rfl
  | regRead reg =>
    simp [decode, encode, Instr.command, opcodeRows, OpcodeRow.selects_toWord, highByte, lowByte, low]

end Sys2Proof
end

section
/-! SUPPORT. Issuing commands from the host (43_host_interface.md R191), and the words of a MOD block. -/

namespace Sys2Proof.Machine

open Sys2Proof

/-- A command that the block answers without an error is answered to the host. -/
theorem Performs.hostIssue_eq {s : State} {i : Instr} {r : Response} {b' : Block} (h : Performs s.toBlock i r b')
    (hr : ∀ c, r ≠ .error c) : hostIssue s i = .ok (⟨b', [], [r]⟩, r) := by
  have hs : step { s with cmds := [encode i], resps := [] } = .next ⟨b', [], [r]⟩ :=
    Answers.step_eq (.performs (decode_encode i) h) [] []
  unfold hostIssue
  rw [hs]
  cases r with
  | error c => exact absurd rfl (hr c)
  | _ => rfl

/-- MOD_WORDs in an open block each count two bytes, up to 256 in all (10_state.md R29). -/
theorem hostRun_modWords (pairs : List (Byte × Bool)) (s : State) (h : s.mod.mopen = true) :
    ∃ t rs, hostRun s (pairs.map (fun p => Instr.modWord p.2 p.1)) = .ok (t, rs) ∧ t.mod.mopen = true ∧
      t.mod.mocnt.val = min 256 (s.mod.mocnt.val + 2 * pairs.length) := by
  induction pairs generalizing s with
  | nil => exact ⟨s, [], rfl, h, (Nat.min_eq_right s.mod.mocnt_le).symm⟩
  | cons p pairs ih =>
    have hp := Performs.hostIssue_eq (.modWord p.2 p.1 h) nofun
    obtain ⟨t, rs, hrun, hopen, hcnt⟩ := ih
      ⟨{ s.toBlock with mod := { s.mod with mocnt := s.mod.countWord } }, [],
        [.bytes (wordBytes (fmWord p.1 p.2))]⟩ h
    refine ⟨t, _, hostRun_cons_ok hp hrun, hopen, hcnt.trans ?_⟩
    simp only [Mod.countWord_val, List.length_cons]
    omega

end Sys2Proof.Machine
end

section
open Sys2Proof Sys2Proof.Machine

/-- Settles O35, by induction on the words of the block. -/
theorem mocntCountsWords : Obligations.MocntCountsWords := by
  intro b pairs hb
  have hbegin := Performs.hostIssue_eq (.modBegin hb) nofun
  obtain ⟨t, rs, hrun, hopen, hcnt⟩ := hostRun_modWords pairs
    ⟨{ b.toBlock with mod := { mopen := true, mocnt := 0 } }, [], [.ack]⟩ rfl
  exact ⟨t, _, hostRun_cons_ok hbegin hrun, by simpa using hcnt, _, Performs.hostIssue_eq (.modEnd hopen) nofun⟩
end

section
/-! SUPPORT. A 16-bit field as the OR of its two bytes (20_memory.md R65). -/

namespace Sys2Proof.Machine

open Sys2Proof

/-- The sum of the two bytes is their OR, because the shifted high byte has no bit below bit 8. -/
theorem le16_eq_or (lo hi : Byte) : le16 lo hi = (lo.setWidth 16 ||| (hi.setWidth 16 <<< 8)).toNat := by
  have hlo : lo.toNat < 2 ^ 8 := lo.isLt
  have hhi : hi.toNat <<< 8 < 2 ^ 16 := by
    have := hi.isLt
    rw [Nat.shiftLeft_eq]
    omega
  calc le16 lo hi
      = hi.toNat <<< 8 + lo.toNat := by rw [le16, Nat.shiftLeft_eq]; omega
    _ = lo.toNat ||| hi.toNat <<< 8 := by rw [Nat.shiftLeft_add_eq_or_of_lt hlo, Nat.or_comm]
    _ = (lo.setWidth 16 ||| (hi.setWidth 16 <<< 8)).toNat := by
      rw [BitVec.toNat_or, BitVec.toNat_shiftLeft, BitVec.toNat_setWidth_of_le (by decide),
        BitVec.toNat_setWidth_of_le (by decide), Nat.mod_eq_of_lt hhi]

end Sys2Proof.Machine
end

section
open Sys2Proof Sys2Proof.Machine

/-- Settles O42: the length field is the 16-bit field of the bytes at the cursor. -/
theorem lengthFieldLittleEndian : Obligations.LengthFieldLittleEndian :=
  fun t c => le16_eq_or (t.read c) (t.read (c + 1))
end

section
/-! SUPPORT. The contract `reset(); feed(R); finish()` as a function of the rate and the raw bytes alone (20_memory.md
R71, 30_encoding.md R88). -/

namespace Sys2Proof.Machine

open Sys2Proof

/-- DEM after DEM_RESET and feeding raw bytes: the block's earlier state does not enter it. -/
def Dem.decoded (rate : Rate) (raw : List Byte) : Dem := raw.foldl Dem.feed (Dem.newTrack rate)

/-- DEM stays initialised and legal while it is fed, so its OBUF holds at most 3125 bytes (10_state.md R26). -/
theorem Dem.decoded_legal (rate : Rate) (raw : List Byte) :
    (Dem.decoded rate raw).dinit = true ∧ (Dem.decoded rate raw).Legal :=
  List.foldlRecOn (motive := fun d : Dem => d.dinit = true ∧ d.Legal) raw Dem.feed ⟨rfl, Dem.legal_newTrack rate⟩
    fun d ⟨hi, hl⟩ byte _ => ⟨(d.feed_dinit byte).trans hi, hl.feed hi byte⟩

/-- The pad fills an OBUF that is not over-full up to exactly one track-side (40_demodulator.md R108). -/
theorem Dem.Legal.length_trackSide {d : Dem} (h : d.Legal) : d.trackSide.length = 3125 := by
  obtain ⟨hlen, -⟩ := h
  simp only [Dem.trackSide, List.length_append, List.length_replicate]
  omega

/-- DEM_FEEDs of an initialised DEM each answer with NONE, and change only DEM (40_demodulator.md R102). -/
theorem hostRun_demFeeds (raw : List Byte) (s : State) (h : s.dem.dinit = true) :
    ∃ t rs, hostRun s (raw.map Instr.demFeed) = .ok (t, rs) ∧ responseBytes rs = [] ∧
      t.toBlock = { s.toBlock with dem := raw.foldl Dem.feed s.dem } := by
  induction raw generalizing s with
  | nil => exact ⟨s, [], rfl, rfl, rfl⟩
  | cons byte raw ih =>
    have hfeed := Performs.hostIssue_eq (.demFeed byte h) nofun
    obtain ⟨t, rs, hrun, hbytes, hblock⟩ := ih ⟨{ s.toBlock with dem := s.dem.feed byte }, [], [.ack]⟩
      ((s.dem.feed_dinit byte).trans h)
    exact ⟨t, _, hostRun_cons_ok hfeed hrun, hbytes, hblock⟩

/-- The contract completes on every block, answers with the decoded track-side, and changes only DEM. -/
theorem runDecode_eq_ok (b : State) (rate : Rate) (raw : List Byte) :
    ∃ t, runDecode b rate raw = .ok (t, (Dem.decoded rate raw).trackSide) ∧
      t.toBlock = { b.toBlock with dem := Dem.decoded rate raw } := by
  have hreset := Performs.hostIssue_eq (s := b) (.demReset rate) nofun
  obtain ⟨t, rs, hfeed, hbytes, hblock⟩ := hostRun_demFeeds raw
    ⟨{ b.toBlock with dem := Dem.newTrack rate }, [], [.ack]⟩ rfl
  have hdem : t.dem = Dem.decoded rate raw := congrArg Block.dem hblock
  have hfinish := Performs.hostIssue_eq (s := t) (.demFinish (hdem ▸ (Dem.decoded_legal rate raw).1)) nofun
  have hrun := hostRun_cons_ok hreset (hostRun_append_ok hfeed (hostRun_cons_ok hfinish (hostRun_nil _)))
  have hout : responseBytes (.ack :: (rs ++ [.bytes t.dem.trackSide])) = (Dem.decoded rate raw).trackSide :=
    calc responseBytes (.ack :: (rs ++ [.bytes t.dem.trackSide]))
        = responseBytes rs ++ t.dem.trackSide := by simp [responseBytes, Response.byteSeq]
      _ = (Dem.decoded rate raw).trackSide := by rw [hbytes, hdem, List.nil_append]
  refine ⟨⟨t.toBlock, [], [.bytes t.dem.trackSide]⟩, ?_, hblock⟩
  simp only [runDecode, demDecode, hrun, hout]

end Sys2Proof.Machine
end

section
open Sys2Proof Sys2Proof.Machine

/-- Settles O26: on both blocks the contract leaves the DEM, and answers with the bytes, that the rate and the raw
bytes alone fix. -/
theorem decodeIsRepeatable : Obligations.DecodeIsRepeatable := by
  intro b b' rate raw
  obtain ⟨t, hrun, hblock⟩ := runDecode_eq_ok b rate raw
  obtain ⟨t', hrun', hblock'⟩ := runDecode_eq_ok b' rate raw
  obtain ⟨-, hlegal⟩ := Dem.decoded_legal rate raw
  exact ⟨t, t', _, hrun, hrun', hlegal.length_trackSide,
    (congrArg Block.dem hblock).trans (congrArg Block.dem hblock').symm⟩
end

section
/-! SUPPORT. A command word seen field by field (30_encoding.md R80): the rows of the opcode map, the decoder and the
four cases of R83 all speak of the words of commands, and of no others. -/

namespace Sys2Proof

open Sys2Proof.Machine

theorem Command.toWord_ofWord (w : Word) : (Command.ofWord w).toWord = w := by
  have hbit (b : BitVec 1) : BitVec.ofBool (b == 1#1) = b := by revert b; decide
  simp only [Command.toWord, Command.ofWord, BitVec.getLsbD_eq_extractLsb', hbit]
  rw [BitVec.extractLsb'_append_extractLsb'_eq_extractLsb' (by rfl),
    BitVec.extractLsb'_append_extractLsb'_eq_extractLsb' (by rfl),
    BitVec.extractLsb'_append_extractLsb'_eq_extractLsb' (by rfl)]
  exact BitVec.extractLsb'_eq_self

theorem Command.ofWord_toWord (c : Command) : Command.ofWord c.toWord = c := by
  have hop : c.toWord.extractLsb' 12 4 = c.op := by
    rw [Command.toWord, BitVec.extractLsb'_append_eq_of_le (by decide),
      BitVec.extractLsb'_append_eq_of_le (by decide)]
    exact BitVec.extractLsb'_append_eq_left
  have hrsv : c.toWord.extractLsb' 9 3 = c.rsv := by
    rw [Command.toWord, BitVec.extractLsb'_append_eq_of_le (by decide),
      BitVec.extractLsb'_append_eq_of_le (by decide)]
    exact BitVec.extractLsb'_append_eq_right
  have hd : c.toWord.extractLsb' 0 8 = c.d := c.lowByte_toWord
  simp [Command.ofWord, hop, hrsv, hd, c.getElem_toWord]

/-- The word is the command's when its fields are. -/
theorem encode_eq_iff (i : Instr) (w : Word) : encode i = w ↔ i.command = Command.ofWord w :=
  ⟨fun h => by rw [← h, encode, Command.ofWord_toWord], fun h => by rw [encode, h, Command.toWord_ofWord]⟩

/-- A row's mask and match value are compared field by field. -/
theorem OpcodeRow.selects_iff_fields (r : OpcodeRow) (w : Word) :
    r.selects w = true ↔
      { op := (Command.ofWord w).op &&& (Command.ofWord r.mask).op
        rsv := (Command.ofWord w).rsv &&& (Command.ofWord r.mask).rsv
        f := (Command.ofWord w).f && (Command.ofWord r.mask).f
        d := (Command.ofWord w).d &&& (Command.ofWord r.mask).d : Command } = Command.ofWord r.pattern := by
  have hinj (v v' : Word) : v = v' ↔ Command.ofWord v = Command.ofWord v' :=
    ⟨congrArg _, fun h => by rw [← Command.toWord_ofWord v, h, Command.toWord_ofWord]⟩
  rw [OpcodeRow.selects, beq_iff_eq, hinj]
  simp only [Command.ofWord, BitVec.extractLsb'_and, BitVec.getLsbD_and]

/-- A row selects exactly the words of its own operation: each of its fields is either masked out and an operand, or
compared whole. -/
theorem OpcodeRow.selects_iff_encode {r : OpcodeRow} (hr : r ∈ opcodeRows) (w : Word) :
    r.selects w = true ↔ encode (r.op (w.getLsbD 8) (w.extractLsb' 0 8)) = w := by
  have hop (x : BitVec 4) : x &&& 15#4 = x := BitVec.and_allOnes
  have hrsv (x : BitVec 3) : x &&& 7#3 = x := BitVec.and_allOnes
  have hd (x : Byte) : x &&& 255#8 = x := BitVec.and_allOnes
  have hrate (f : Bool) : flagOfRate (rateOfFlag f) = f := by cases f <;> rfl
  have hstrategy (f : Bool) : flagOfStrategy (strategyOfFlag f) = f := by cases f <;> rfl
  rw [encode_eq_iff, OpcodeRow.selects_iff_fields, eq_comm]
  simp only [opcodeRows, List.mem_cons, List.not_mem_nil, or_false] at hr
  rcases hr with rfl | rfl | rfl | rfl | rfl | rfl | rfl | rfl | rfl | rfl <;>
    simp [Command.ofWord, Instr.command, hop, hrsv, hd, hrate, hstrategy]

/-- The operations of two rows differ in OP, whatever their operands. -/
theorem opcodeRows_pairwise_op_ne : opcodeRows.Pairwise
    (fun r r' => ∀ f d, (r.op f d).command.op ≠ (r'.op f d).command.op) := by
  simp [opcodeRows, Instr.command]

/-- Decoding and encoding are inverse to each other, on all legal words (30_encoding.md R84). -/
theorem decode_eq_ok_iff (w : Word) (i : Instr) : decode w = .ok i ↔ encode i = w := by
  refine ⟨fun h => ?_, fun h => h ▸ decode_encode i⟩
  unfold decode at h
  split at h
  · next r hr =>
    cases h
    have hs : r.selects w = true := List.find?_some (p := fun r : OpcodeRow => r.selects w) hr
    exact (OpcodeRow.selects_iff_encode (List.mem_of_find?_eq_some hr) w).mp hs
  · cases h

theorem OpcodeRow.decode_of_selects {r : OpcodeRow} (hr : r ∈ opcodeRows) {w : Word} (h : r.selects w = true) :
    decode w = .ok (r.op (w.getLsbD 8) (w.extractLsb' 0 8)) :=
  (decode_eq_ok_iff w _).mpr ((selects_iff_encode hr w).mp h)

/-- A word that no row selects decodes to no command. -/
theorem not_decode_ok_of_not_selects {w : Word} (h : ∀ r ∈ opcodeRows, ¬ r.selects w = true) :
    ¬ ∃ i, decode w = .ok i := by
  have hnone : opcodeRows.find? (fun r => r.selects w) = none := List.find?_eq_none.mpr h
  simp [decode, hnone]

theorem Command.opDefined_cases {c : Command} (h : c.opDefined = true) :
    c.op = 1#4 ∨ c.op = 2#4 ∨ c.op = 3#4 ∨ c.op = 4#4 ∨ c.op = 5#4 ∨ c.op = 6#4 ∨ c.op = 7#4 ∨ c.op = 8#4 ∨
      c.op = 9#4 ∨ c.op = 10#4 := by
  simp only [Command.opDefined, Bool.and_eq_true, decide_eq_true_eq] at h
  simp only [← BitVec.toNat_inj, BitVec.toNat_ofNat]
  omega

/-- An operation fixes every field but its operands, and a legal word has 0 in each field that is no operand. -/
theorem Command.exists_instr_of_wellFormed {c : Command} (h : c.wellFormed = true) : ∃ i : Instr, i.command = c := by
  obtain ⟨op, rsv, f, d⟩ := c
  simp only [wellFormed, rsvZero, Bool.and_eq_true, beq_iff_eq] at h
  obtain ⟨⟨⟨hop, rfl⟩, hf⟩, hd⟩ := h
  rcases opDefined_cases hop with rfl | rfl | rfl | rfl | rfl | rfl | rfl | rfl | rfl | rfl <;>
    simp [fAllowed, dAllowed, takesF, takesD] at hf hd <;> subst_vars
  · exact ⟨.demReset (rateOfFlag f), by cases f <;> rfl⟩
  · exact ⟨.demFeed d, rfl⟩
  · exact ⟨.demFinish, rfl⟩
  · exact ⟨.modBegin, rfl⟩
  · exact ⟨.modWord f d, rfl⟩
  · exact ⟨.modEnd, rfl⟩
  · exact ⟨.sslClear, rfl⟩
  · exact ⟨.sslLoad d, rfl⟩
  · exact ⟨.sslLocate (strategyOfFlag f), by cases f <;> rfl⟩
  · exact ⟨.regRead d, rfl⟩

theorem Instr.wellFormed_command (i : Instr) : i.command.wellFormed = true := by
  cases i with
  | demReset rate => exact Laws.EncodeLegal.demReset rate
  | demFeed raw => exact Laws.EncodeLegal.demFeed raw
  | demFinish => exact Laws.EncodeLegal.demFinish
  | modBegin => exact Laws.EncodeLegal.modBegin
  | modWord sync data => exact Laws.EncodeLegal.modWord sync data
  | modEnd => exact Laws.EncodeLegal.modEnd
  | sslClear => exact Laws.EncodeLegal.sslClear
  | sslLoad data => exact Laws.EncodeLegal.sslLoad data
  | sslLocate la => exact Laws.EncodeLegal.sslLocate la
  | regRead reg => exact Laws.EncodeLegal.regRead reg

/-- A word decodes to a command exactly when its fields pass the four checks of 30_encoding.md R83. -/
theorem exists_decode_ok_iff_wellFormed (w : Word) :
    (∃ i, decode w = .ok i) ↔ (Command.ofWord w).wellFormed = true := by
  simp only [decode_eq_ok_iff, encode_eq_iff]
  exact ⟨fun ⟨i, h⟩ => h ▸ i.wellFormed_command, Command.exists_instr_of_wellFormed⟩

/-- The fields of a word as parts of its number. -/
theorem Command.ofWord_toNat (w : Word) :
    (Command.ofWord w).op.toNat = w.toNat / 4096 ∧ (Command.ofWord w).rsv.toNat = w.toNat / 512 % 8 ∧
      (Command.ofWord w).f.toNat = w.toNat / 256 % 2 ∧ (Command.ofWord w).d.toNat = w.toNat % 256 := by
  have := w.isLt
  refine ⟨?_, ?_, ?_, ?_⟩
  · simp [Command.ofWord, Nat.shiftRight_eq_div_pow]; omega
  · simp [Command.ofWord, Nat.shiftRight_eq_div_pow]
  · exact Nat.toNat_testBit w.toNat 8
  · simp [Command.ofWord]

/-- The checks of 30_encoding.md R83, on the word's number. -/
theorem Command.wellFormed_ofWord_iff (w : Word) :
    (Command.ofWord w).wellFormed = true ↔
      ¬ (w.toNat / 4096 = 0 ∨ 11 ≤ w.toNat / 4096 ∨ w.toNat / 512 % 8 ≠ 0 ∨
        (w.toNat / 256 % 2 = 1 ∧ w.toNat / 4096 ∉ [1, 5, 9]) ∨
        (w.toNat % 256 ≠ 0 ∧ w.toNat / 4096 ∉ [2, 5, 8, 10])) := by
  obtain ⟨hop, hrsv, hf, hd⟩ := Command.ofWord_toNat w
  rw [← hop, ← hrsv, ← hf, ← hd]
  generalize Command.ofWord w = c
  simp [Command.wellFormed, Command.opDefined, Command.rsvZero, Command.fAllowed, Command.dAllowed, Command.takesF,
    Command.takesD, ← BitVec.toNat_inj]
  cases c.f <;> simp <;> omega

/-- The assembler's form of a command word: the byte operand is OR-ed into a word whose low byte is 0 (30_encoding.md
R87). -/
theorem Command.toWord_eq_or_operandWord (op : BitVec 4) (rsv : BitVec 3) (f : Bool) (d : Byte) :
    Command.toWord { op := op, rsv := rsv, f := f, d := d } =
      Command.toWord { op := op, rsv := rsv, f := f, d := 0#8 } ||| operandWord d := by
  have hd : operandWord d = 0#8 ++ d := BitVec.setWidth_eq_append (by decide)
  rw [Command.toWord, Command.toWord, hd, BitVec.or_append, BitVec.or_zero, BitVec.zero_or]

theorem Machine.AsmLine.encode_instr (l : AsmLine) : encode l.instr = l.word := by
  cases l with
  | demFeed b => exact Command.toWord_eq_or_operandWord 0x2#4 0#3 false b
  | modWord b => exact Command.toWord_eq_or_operandWord 0x5#4 0#3 false b
  | modWordS b => exact Command.toWord_eq_or_operandWord 0x5#4 0#3 true b
  | sslLoad b => exact Command.toWord_eq_or_operandWord 0x8#4 0#3 false b
  | regRead r => exact Command.toWord_eq_or_operandWord 0xA#4 0#3 false r
  | regReadName r => exact Command.toWord_eq_or_operandWord 0xA#4 0#3 false r.number
  | _ => rfl

end Sys2Proof
end

section
/-! SUPPORT. The answers to an illegal word and to a reserved register number (30_encoding.md R83, 44_register_read.md
R230). -/

namespace Sys2Proof.Machine

open Sys2Proof

theorem raisesIllegal_of_not_decode_ok {w : Word} (h : ¬ ∃ i, decode w = .ok i) : RaisesIllegal w := by
  rintro ⟨b, cs, rs⟩ rest rfl
  cases hd : decode w with
  | ok i => exact absurd ⟨i, hd⟩ h
  | error e => exact Answers.step_eq (.illegal hd) rest rs

theorem Block.register_of_ge (b : Block) {r : Byte} (h : 0x0A ≤ r.toNat) : b.register r = none := by
  cases hr : b.register r with
  | none => rfl
  | some v => exact absurd (State.register_some hr) (Nat.not_lt.mpr h)

end Sys2Proof.Machine
end

section
open Sys2Proof Sys2Proof.Machine

/-- Settles O1, command by command: the first row that selects its word is its own. -/
theorem decodeOfEncode : Obligations.DecodeOfEncode := decode_encode

/-- Settles O2: the row that decode finds selects only the words of its own operation. -/
theorem encodeOfDecode : Obligations.EncodeOfDecode := fun w i => (decode_eq_ok_iff w i).mp

/-- Settles O3: two rows that select a word select it for the commands they stand for, which differ in OP. -/
theorem oneRowPerWord : Obligations.OneRowPerWord := by
  intro w
  refine opcodeRows_pairwise_op_ne.imp_of_mem fun {r r'} hr hr' hne ⟨hs, hs'⟩ => ?_
  have hc := (encode_eq_iff _ w).mp ((OpcodeRow.selects_iff_encode hr w).mp hs)
  have hc' := (encode_eq_iff _ w).mp ((OpcodeRow.selects_iff_encode hr' w).mp hs')
  exact hne _ _ (congrArg Command.op (hc.trans hc'.symm))

/-- Settles O4: a selecting row gives the command whose word it is, and without one decode finds nothing. -/
theorem decodeFollowsTable : Obligations.DecodeFollowsTable := by
  intro w
  have hrows : ∀ r ∈ opcodeRows, w &&& r.mask = r.pattern →
      decode w = .ok (r.op (w.getLsbD 8) (w.extractLsb' 0 8)) :=
    fun r hr h => OpcodeRow.decode_of_selects hr (beq_iff_eq.mpr h)
  simp only [opcodeRows, List.forall_mem_cons] at hrows
  obtain ⟨h1, h2, h3, h4, h5, h6, h7, h8, h9, h10, -⟩ := hrows
  refine ⟨h1, h2, h3, h4, h5, h6, h7, h8, h9, h10, fun h => ?_⟩
  have hnone : ∀ r ∈ opcodeRows, ¬ r.selects w = true := fun r hr hs =>
    h (r.pattern, r.mask) (List.mem_map_of_mem (f := fun r : OpcodeRow => (r.pattern, r.mask)) hr) (beq_iff_eq.mp hs)
  exact raisesIllegal_of_not_decode_ok (not_decode_ok_of_not_selects hnone)

/-- Settles O5: the words of commands are those whose fields pass the four checks, and no register has a number from
0x0A on. -/
theorem illegalEncodings : Obligations.IllegalEncodings := by
  refine ⟨fun w => ⟨?_, raisesIllegal_of_not_decode_ok⟩, fun d hd => ⟨?_, fun ⟨b, cs, rs⟩ => ?_⟩⟩
  · exact (exists_decode_ok_iff_wellFormed w).trans (Command.wellFormed_ofWord_iff w)
  · exact (decode_eq_ok_iff _ _).mpr (by simp [encode, Instr.command, Command.toWord])
  · exact ⟨_, Performs.exec_eq (.fails (.regRead (b.register_of_ge hd))) cs rs, rfl⟩

/-- Settles O7: a line assembles to the word of its command. -/
theorem assembledLinesDecode : Obligations.AssembledLinesDecode :=
  fun l => (decode_eq_ok_iff _ _).mpr l.encode_instr

/-- Settles O9: a word is answered once, and a command performed once, with a response of its kind in each case. -/
theorem oneResponsePerCommand : Obligations.OneResponsePerCommand := by
  constructor
  · rintro ⟨b, _, rs⟩ w rest rfl
    obtain ⟨r, b', h⟩ := exists_answers b w
    exact ⟨_, r, h.step_eq rest rs, rfl, rfl⟩
  · rintro i ⟨b, cs, rs⟩
    obtain ⟨r, b', h⟩ := exists_performs b i
    refine ⟨_, r, h.exec_eq cs rs, rfl, rfl, ?_⟩
    cases h with
    | @fails _ c _ => exact .inl ⟨c, rfl⟩
    | demFinish h => exact .inr ⟨_, rfl⟩
    | modWord sync data h => exact .inr ⟨_, _, rfl⟩
    | modEnd h => exact .inr ⟨_, rfl, b.mod.pad_length.trans_le (Nat.sub_le ..)⟩
    | sslLocate la h => exact .inr ⟨_, _, rfl, Nat.le_of_lt_succ (Fin.isLt _)⟩
    | regRead h => exact .inr ⟨_, rfl⟩
    | _ => exact .inr rfl

/-- Settles O6 by running the decoder on each word. -/
theorem sampleWordsDecode : Obligations.SampleWordsDecode :=
  ⟨rfl, rfl, rfl, rfl, rfl, rfl, rfl, rfl, rfl, rfl, rfl, rfl, rfl⟩

/-- Settles O8: taking the oldest word off the queue is all a step does before it executes or stays idle. -/
theorem stepRunsDecodedCommand : Obligations.StepRunsDecodedCommand := by
  refine ⟨fun s w rest i hc hd => ?_, fun s => step_of_idle⟩
  simp [step, State.takeCommand, hc, hd]
end

section
/-! SUPPORT. A cell step in each of its cases (40_demodulator.md R103): counted or emitted in the data phase, kept or
resynchronised in the sync phase. -/

namespace Sys2Proof.Machine

open Sys2Proof

theorem emitByte_eq_ite (o : List Byte) (v : Byte) : emitByte o v = if o.length < 3125 then o ++ [v] else o := rfl

/-- Emitting bytes one by one keeps what fits into the first 3125 (40_demodulator.md R107). -/
theorem foldl_emitByte (vs o : List Byte) (h : o.length ≤ 3125) : vs.foldl emitByte o = (o ++ vs).take 3125 := by
  induction vs generalizing o with
  | nil => rw [List.foldl_nil, List.append_nil, List.take_of_length_le h]
  | cons v vs ih =>
    rw [List.foldl_cons, ih _ (emitByte_length_le h v)]
    rcases emitByte_cases o v with ⟨-, he⟩ | ⟨hl, he⟩
    · rw [he, List.append_assoc, List.singleton_append]
    · rw [he, List.take_append_of_le_length hl, List.take_append_of_le_length hl]

theorem shiftIn_eq (acc : Byte) (b : Bool) : shiftIn acc b = (acc <<< 1) ||| (if b then 1#8 else 0#8) := rfl

theorem Dem.finishCell_of_eight (d : Dem) {c : CellRegs} (h : c.count = 8) :
    d.finishCell c = { d with
      phase := c.phase.toggle, dacc := c.dacc, sacc := c.sacc, bcnt := 0, obuf := emitByte d.obuf c.dacc } := by
  simp [Dem.finishCell, keepCount, h]

theorem Dem.finishCell_of_lt (d : Dem) {c : CellRegs} (h : c.count < 8) :
    d.finishCell c = { d with
      phase := c.phase.toggle, dacc := c.dacc, sacc := c.sacc, bcnt := ⟨c.count, h⟩ } := by
  simp [Dem.finishCell, keepCount, h, h.ne]

@[simp] theorem CellRegs.resyncData_phase (c : CellRegs) : c.resyncData.phase = c.phase := by
  unfold CellRegs.resyncData
  split <;> rfl

/-- The two cases need different phases; and case (b) leaves FD/06 in the data phase, where case (a) sets the count to
the 8 that it already is (40_demodulator.md R110). -/
theorem CellRegs.resyncSync_resyncData_comm (c : CellRegs) : c.resyncSync.resyncData = c.resyncData.resyncSync := by
  cases h : c.phase with
  | data => rw [resyncSync_of_data h, resyncSync_of_data (c.resyncData_phase.trans h)]
  | sync =>
    rw [resyncData_of_sync h, resyncSync]
    split
    · next hb => exact if_pos ⟨rfl, hb.2⟩
    · exact resyncData_of_sync h

/-- Case (a) fires in the data phase only, and case (b) not there. -/
theorem CellRegs.resyncSync_resyncData_of_ne {c : CellRegs} (h : c.resyncData ≠ c) :
    c.resyncData.resyncSync = c.resyncData := by
  cases hp : c.phase with
  | data => exact resyncSync_of_data (c.resyncData_phase.trans hp)
  | sync => exact absurd (resyncData_of_sync hp) h

variable {d : Dem} {b : Bool}

theorem Dem.append_of_data (h : d.phase = .data) (b : Bool) :
    d.cellRegs.append b =
      { phase := .data, dacc := shiftIn d.dacc b, sacc := d.sacc, count := d.bcnt.val + 1 } := by
  simp [CellRegs.append, Dem.cellRegs, h]

theorem Dem.append_of_sync (h : d.phase = .sync) (b : Bool) :
    d.cellRegs.append b = { phase := .sync, dacc := d.dacc, sacc := shiftIn d.sacc b, count := d.bcnt.val } := by
  simp [CellRegs.append, Dem.cellRegs, h]

/-- In the data phase the only resynchronisation is case (a), which sets the count (R105). -/
theorem Dem.cell_of_data (h : d.phase = .data) (b : Bool) :
    d.cell b =
      { phase := .data, dacc := shiftIn d.dacc b, sacc := d.sacc
        count := if shiftIn d.dacc b = 0x06#8 ∧ d.sacc = 0xFD#8 then 8 else d.bcnt.val + 1 } := by
  by_cases ha : shiftIn d.dacc b = 0x06#8 ∧ d.sacc = 0xFD#8 <;>
    simp [Dem.cell, Dem.append_of_data h, CellRegs.resyncData, CellRegs.resyncSync, ha]

/-- In the sync phase the only resynchronisation is case (b), which exchanges the accumulators (R106). -/
theorem Dem.cell_of_sync_resync (h : d.phase = .sync) (hs : shiftIn d.sacc b = 0x06#8) (hd : d.dacc = 0xFD#8) :
    d.cell b = { phase := .data, dacc := 0x06#8, sacc := 0xFD#8, count := 8 } := by
  simp [Dem.cell, Dem.append_of_sync h, CellRegs.resyncData, CellRegs.resyncSync, hs, hd]

theorem Dem.cell_of_sync_quiet (h : d.phase = .sync) (hq : ¬ (shiftIn d.sacc b = 0x06#8 ∧ d.dacc = 0xFD#8)) :
    d.cell b = { phase := .sync, dacc := d.dacc, sacc := shiftIn d.sacc b, count := d.bcnt.val } := by
  simp [Dem.cell, Dem.append_of_sync h, CellRegs.resyncData, CellRegs.resyncSync, hq]

theorem Dem.cell_count_le (d : Dem) (b : Bool) : (d.cell b).count ≤ 8 := by
  have hb := d.bcnt_lt
  cases h : d.phase with
  | data =>
    rw [Dem.cell_of_data h]
    simp only
    split <;> omega
  | sync =>
    by_cases hq : shiftIn d.sacc b = 0x06#8 ∧ d.dacc = 0xFD#8
    · rw [Dem.cell_of_sync_resync h hq.1 hq.2]
    · rw [Dem.cell_of_sync_quiet h hq]
      exact hb.le

/-- A data cell that completes a byte, by case (a) or as the eighth. -/
theorem Dem.cellStep_of_data_done (h : d.phase = .data)
    (hb : (shiftIn d.dacc b = 0x06#8 ∧ d.sacc = 0xFD#8) ∨ d.bcnt.val + 1 = 8) :
    d.cellStep b = { d with
      phase := .sync, dacc := shiftIn d.dacc b, bcnt := 0, obuf := emitByte d.obuf (shiftIn d.dacc b) } := by
  have hcount : (d.cell b).count = 8 := by
    rw [Dem.cell_of_data h]
    exact ite_eq_left_iff.mpr fun hn => hb.resolve_left hn
  rw [Dem.cellStep, Dem.finishCell_of_eight d hcount, Dem.cell_of_data h]
  rfl

/-- A data cell that only counts towards a byte. -/
theorem Dem.cellStep_of_data_counts (h : d.phase = .data)
    (ha : ¬ (shiftIn d.dacc b = 0x06#8 ∧ d.sacc = 0xFD#8)) (hb : d.bcnt.val + 1 < 8) :
    d.cellStep b = { d with phase := .sync, dacc := shiftIn d.dacc b, bcnt := ⟨d.bcnt.val + 1, hb⟩ } := by
  have hcell := Dem.cell_of_data h b
  rw [if_neg ha] at hcell
  rw [Dem.cellStep, hcell, Dem.finishCell_of_lt d hb]
  rfl

theorem Dem.cellStep_of_sync_resync (h : d.phase = .sync) (hs : shiftIn d.sacc b = 0x06#8) (hd : d.dacc = 0xFD#8) :
    d.cellStep b = { d with
      phase := .sync, dacc := 0x06#8, sacc := 0xFD#8, bcnt := 0, obuf := emitByte d.obuf 0x06#8 } := by
  rw [Dem.cellStep, Dem.cell_of_sync_resync h hs hd, Dem.finishCell_of_eight d rfl]
  rfl

theorem Dem.cellStep_of_sync_quiet (h : d.phase = .sync) (hq : ¬ (shiftIn d.sacc b = 0x06#8 ∧ d.dacc = 0xFD#8)) :
    d.cellStep b = { d with phase := .data, sacc := shiftIn d.sacc b } := by
  rw [Dem.cellStep, Dem.cell_of_sync_quiet h hq, Dem.finishCell_of_lt d d.bcnt_lt]
  rfl

end Sys2Proof.Machine
end

section
open Sys2Proof Sys2Proof.Machine

/-- Settles O20 from the cell step's four cases: a data cell done or counted, a clock cell resynchronised or quiet. -/
theorem cellStepResult : Obligations.CellStepResult := by
  intro d b
  have hlt := d.bcnt_lt
  simp only [← shiftIn_eq]
  cases h : d.phase with
  | data =>
    by_cases hdone : (shiftIn d.dacc b = 0x06#8 ∧ d.sacc = 0xFD#8) ∨ d.bcnt.val + 1 = 8
    · simp [-Nat.reduceEqDiff, Dem.cellStep_of_data_done h hdone, emitByte_eq_ite, hdone]
    · obtain ⟨ha, hb⟩ := not_or.mp hdone
      simp [-Nat.reduceEqDiff, Dem.cellStep_of_data_counts h ha (by omega), hdone]
  | sync =>
    by_cases hq : shiftIn d.sacc b = 0x06#8 ∧ d.dacc = 0xFD#8
    · obtain ⟨hs, hd⟩ := hq
      simp [Dem.cellStep_of_sync_resync h hs hd, emitByte_eq_ite, hs, hd]
    · simp [Dem.cellStep_of_sync_quiet h hq, hq]

/-- Settles O21: case (a) is a data cell that completes the byte 0x06. -/
theorem dataPhaseResync : Obligations.DataPhaseResync := by
  intro d b h hd hs
  rw [Dem.cellStep_of_data_done h (.inl ⟨hd, hs⟩), hd, emitByte_eq_ite]

/-- Settles O22: case (b) is the clock cell that resynchronises. -/
theorem syncPhaseResync : Obligations.SyncPhaseResync :=
  fun _ _ => Dem.cellStep_of_sync_resync

/-- Settles O23: the emit stage by the count, and repeated emission by induction on the bytes. -/
theorem emitKeepsFirstBytes : Obligations.EmitKeepsFirstBytes := by
  refine ⟨fun d b => ⟨fun h => ?_, fun h => ?_⟩, fun vs => foldl_emitByte vs [] (Nat.zero_le _)⟩
  · rw [Dem.cellStep, Dem.finishCell_of_eight d h]
    exact ⟨rfl, rfl⟩
  · rw [Dem.cellStep, Dem.finishCell_of_lt d ((d.cell_count_le b).lt_of_ne h)]
    exact ⟨rfl, rfl⟩

/-- Settles O24: the resynchronisation cases commute and exclude each other on any registers. -/
theorem resyncOrderIsIrrelevant : Obligations.ResyncOrderIsIrrelevant :=
  fun d b => ⟨CellRegs.resyncSync_resyncData_comm _, d.cell_count_le b, CellRegs.resyncSync_resyncData_of_ne⟩
end

section
/-! SUPPORT. The cells of an FM word (30_encoding.md R89, 41_modulator.md R132, R136), in the order in which they are
sent. -/

namespace Sys2Proof.Machine

open Sys2Proof

theorem getLsbD_fmShift (w : Word) (b : Bool) (i : Nat) :
    (fmShift w b).getLsbD i = if i = 0 then true else if i = 1 then b else decide (i < 16) && w.getLsbD (i - 2) := by
  rcases i with _ | _ | i
  · cases b <;> simp [fmShift]
  · cases b <;> simp [fmShift]
  · have hset : (if b then 3#16 else 1#16).getLsbD (i + 2) = false := by
      cases b <;> simp [BitVec.getLsbD_ofNat, Nat.testBit_succ]
    simp [fmShift, hset]

/-- A flagged word has clock cell c1, bit 12, cleared, and the other bits as in the plain word. -/
theorem getLsbD_fmWord (v : Byte) (sync : Bool) {i : Nat} (hi : i < 16) :
    (fmWord v sync).getLsbD i = ((fmPlain v).getLsbD i && !(sync && i == 12)) := by
  have hmask : ∀ i < 16, (0xEFFF#16).getLsbD i = !(i == 12) := by decide
  cases sync <;> simp [fmWord, hmask i hi]

theorem fmPlain_eq (v : Byte) :
    fmPlain v = fmShift (fmShift (fmShift (fmShift (fmShift (fmShift (fmShift (fmShift 0#16 (v.getLsbD 0))
      (v.getLsbD 1)) (v.getLsbD 2)) (v.getLsbD 3)) (v.getLsbD 4)) (v.getLsbD 5)) (v.getLsbD 6)) (v.getLsbD 7) := rfl

/-- The first seven pairs of clock and data cells of an FM word: the data bits, highest first, each after its clock
cell, which is 1 but for c1 of a flagged word. -/
def fmFirstCells (v : Byte) (sync : Bool) : List (Bool × Bool) :=
  [(true, v.getLsbD 7), (true, v.getLsbD 6), (true, v.getLsbD 5), (true, v.getLsbD 4), (true, v.getLsbD 3),
    (true, v.getLsbD 2), (!sync, v.getLsbD 1)]

@[simp] theorem fmFirstCells_length (v : Byte) (sync : Bool) : (fmFirstCells v sync).length = 7 := rfl

/-- An FM word is sent as its seven first pairs of cells and the pair of data bit 0. -/
theorem samples_wordBytes_fmWord (v : Byte) (sync : Bool) :
    (wordBytes (fmWord v sync)).flatMap (samples .one) =
      (fmFirstCells v sync).flatMap (fun p => [p.1, p.2]) ++ [true, v.getLsbD 0] := by
  simp [-BitVec.getLsbD_eq_getElem, wordBytes, lowByte, highByte, fmFirstCells, getLsbD_fmWord, fmPlain_eq,
    getLsbD_fmShift]

end Sys2Proof.Machine
end

section
/-! SUPPORT. Feeding a byte-aligned DEM the cells of an FM word (40_demodulator.md R112). -/

namespace Sys2Proof.Machine

open Sys2Proof

theorem getLsbD_shiftIn (acc : Byte) (b : Bool) (i : Nat) :
    (shiftIn acc b).getLsbD i = if i = 0 then b else decide (i < 8) && acc.getLsbD (i - 1) := by
  cases i <;> cases b <;> simp [shiftIn, BitVec.getLsbD_ofNat, Nat.testBit_succ]

/-- Eight data cells, highest bit first, replace the accumulator. -/
theorem shiftIn_foldl_fmFirstCells (acc v : Byte) (sync : Bool) :
    shiftIn (((fmFirstCells v sync).map Prod.snd).foldl shiftIn acc) (v.getLsbD 0) = v := by
  refine BitVec.eq_of_getLsbD_eq fun i hi => ?_
  interval_cases i <;> simp [-BitVec.getLsbD_eq_getElem, fmFirstCells, getLsbD_shiftIn]

/-- Feeding raw bytes is stepping through their samples. -/
theorem Dem.foldl_feed (raw : List Byte) (d : Dem) :
    raw.foldl Dem.feed d = (raw.flatMap (samples d.step)).foldl Dem.cellStep d := by
  induction raw generalizing d with
  | nil => rfl
  | cons byte raw ih =>
    rw [List.foldl_cons, ih, Dem.feed_step, List.flatMap_cons, List.foldl_append]
    rfl

/-- Appending these clock cells to SACC never shows the patterns 06 and FD of the resynchronisation cases. -/
def quietClocks : Byte → List Bool → Bool
  | _, [] => true
  | sacc, c :: cs => shiftIn sacc c != 0x06#8 && shiftIn sacc c != 0xFD#8 && quietClocks (shiftIn sacc c) cs

theorem quietClocks_cons {sacc : Byte} {c : Bool} {cs : List Bool} :
    quietClocks sacc (c :: cs) = true ↔
      shiftIn sacc c ≠ 0x06#8 ∧ shiftIn sacc c ≠ 0xFD#8 ∧ quietClocks (shiftIn sacc c) cs = true := by
  simp [quietClocks, and_assoc]

/-- A quiet clock cell and a data cell that counts towards a byte. -/
theorem Dem.cellStep_cellStep_counts {d : Dem} {c v : Bool} (hp : d.phase = .sync) (h06 : shiftIn d.sacc c ≠ 0x06#8)
    (hFD : shiftIn d.sacc c ≠ 0xFD#8) (hb : d.bcnt.val + 1 < 8) :
    (d.cellStep c).cellStep v = { d with
      phase := .sync, dacc := shiftIn d.dacc v, sacc := shiftIn d.sacc c, bcnt := ⟨d.bcnt.val + 1, hb⟩ } := by
  rw [Dem.cellStep_of_sync_quiet hp (fun h => h06 h.1)]
  exact Dem.cellStep_of_data_counts (d := { d with phase := .data, sacc := shiftIn d.sacc c }) rfl
    (fun h => hFD h.2) hb

/-- A quiet clock cell and the eighth data cell. -/
theorem Dem.cellStep_cellStep_done {d : Dem} {c v : Bool} (hp : d.phase = .sync) (h06 : shiftIn d.sacc c ≠ 0x06#8)
    (hb : d.bcnt.val + 1 = 8) :
    (d.cellStep c).cellStep v = { d with
      phase := .sync, dacc := shiftIn d.dacc v, sacc := shiftIn d.sacc c, bcnt := 0
      obuf := emitByte d.obuf (shiftIn d.dacc v) } := by
  rw [Dem.cellStep_of_sync_quiet hp (fun h => h06 h.1)]
  exact Dem.cellStep_of_data_done rfl (.inr hb)

/-- Clock and data cells without resynchronisation only shift and count, until the byte's last data cell. -/
theorem Dem.foldl_quietCells (cells : List (Bool × Bool)) (d : Dem) (hp : d.phase = .sync)
    (hlen : d.bcnt.val + cells.length < 8) (hq : quietClocks d.sacc (cells.map Prod.fst) = true) :
    (cells.flatMap (fun p => [p.1, p.2])).foldl Dem.cellStep d = { d with
      dacc := (cells.map Prod.snd).foldl shiftIn d.dacc
      sacc := (cells.map Prod.fst).foldl shiftIn d.sacc
      bcnt := ⟨d.bcnt.val + cells.length, hlen⟩ } := by
  induction cells generalizing d with
  | nil => rfl
  | cons p cells ih =>
    obtain ⟨h06, hFD, hq⟩ := quietClocks_cons.mp hq
    rw [List.length_cons] at hlen
    have hpair := Dem.cellStep_cellStep_counts (v := p.2) hp h06 hFD (by omega)
    simp only [List.flatMap_cons, List.cons_append, List.nil_append, List.foldl_cons, hpair]
    rw [ih _ rfl (by simp only; omega) hq]
    simp [hp, Nat.add_assoc, Nat.add_comm 1]

/-- DEM between two FM words: reset, or just past the last cell of a word, plain or flagged. -/
structure Dem.Aligned (d : Dem) : Prop where
  step : d.step = .one
  phase : d.phase = .sync
  bcnt : d.bcnt = 0
  sacc : d.sacc ∈ [0x00#8, 0xFF#8, 0xFD#8]

theorem Dem.aligned_newTrack : (Dem.newTrack .bitlen2).Aligned := ⟨rfl, rfl, rfl, List.mem_cons_self ..⟩

/-- The clock cells of an FM word are quiet up to the seventh, and the eighth leaves FF, or FD of a flagged word. -/
theorem quietClocks_fmFirstCells {sacc : Byte} (h : sacc ∈ [0x00#8, 0xFF#8, 0xFD#8]) (v : Byte) (sync : Bool) :
    quietClocks sacc ((fmFirstCells v sync).map Prod.fst) = true ∧
      shiftIn (((fmFirstCells v sync).map Prod.fst).foldl shiftIn sacc) true = if sync then 0xFD#8 else 0xFF#8 := by
  have hall : ∀ sacc ∈ [0x00#8, 0xFF#8, 0xFD#8], ∀ sync,
      quietClocks sacc [true, true, true, true, true, true, !sync] = true ∧
        shiftIn ([true, true, true, true, true, true, !sync].foldl shiftIn sacc) true =
          if sync then 0xFD#8 else 0xFF#8 := by
    decide
  exact hall sacc h sync

/-- An aligned DEM emits the data byte of an FM word, whatever the word's flag, and is aligned again. -/
theorem Dem.Aligned.foldl_feed_fmWord {d : Dem} (h : d.Aligned) (v : Byte) (sync : Bool) :
    (wordBytes (fmWord v sync)).foldl Dem.feed d =
      { d with dacc := v, sacc := if sync then 0xFD#8 else 0xFF#8, obuf := emitByte d.obuf v } := by
  obtain ⟨hstep, hp, hb, hs⟩ := h
  obtain ⟨hquiet, hlast⟩ := quietClocks_fmFirstCells hs v sync
  have hbcnt : d.bcnt.val = 0 := congrArg Fin.val hb
  have hfirst := Dem.foldl_quietCells (fmFirstCells v sync) d hp (by simp [hbcnt]) hquiet
  have h06 : (if sync then 0xFD#8 else 0xFF#8) ≠ 0x06#8 := by cases sync <;> decide
  rw [Dem.foldl_feed, hstep, samples_wordBytes_fmWord, List.foldl_append, hfirst, List.foldl_cons, List.foldl_cons,
    List.foldl_nil, Dem.cellStep_cellStep_done]
  · simp only [hlast, shiftIn_foldl_fmFirstCells, hp, hb, hstep]
  · exact hp
  · exact hlast ▸ h06
  · simp [hbcnt]

theorem Dem.Aligned.after_fmWord {d : Dem} (h : d.Aligned) (v : Byte) (sync : Bool) :
    ((wordBytes (fmWord v sync)).foldl Dem.feed d).Aligned := by
  rw [h.foldl_feed_fmWord]
  obtain ⟨hstep, hp, hb, -⟩ := h
  exact ⟨hstep, hp, hb, by cases sync <;> simp⟩

/-- Feeding FM words emits their data bytes. -/
theorem Dem.Aligned.obuf_foldl_feed {d : Dem} (h : d.Aligned) (pairs : List (Byte × Bool)) :
    ((pairs.flatMap (fun p => wordBytes (fmWord p.1 p.2))).foldl Dem.feed d).obuf =
      (pairs.map Prod.fst).foldl emitByte d.obuf := by
  induction pairs generalizing d with
  | nil => rfl
  | cons p pairs ih =>
    rw [List.flatMap_cons, List.foldl_append, ih (h.after_fmWord p.1 p.2), h.foldl_feed_fmWord]
    rfl

/-- Decoding what MOD sends for data bytes gives the first 3125 of them. -/
theorem Dem.obuf_decoded_fmWords (pairs : List (Byte × Bool)) :
    (Dem.decoded .bitlen2 (pairs.flatMap (fun p => wordBytes (fmWord p.1 p.2)))).obuf =
      (pairs.map Prod.fst).take 3125 :=
  (Dem.aligned_newTrack.obuf_foldl_feed pairs).trans (foldl_emitByte _ [] (Nat.zero_le _))

end Sys2Proof.Machine
end

section
/-! SUPPORT. What MOD answers for a whole block (41_modulator.md R135). -/

namespace Sys2Proof.Machine

open Sys2Proof

/-- The MOD_WORDs of an open block answer with the bytes of their FM words. -/
theorem responseBytes_modWords {pairs : List (Byte × Bool)} {s t : State} {rs : List Response}
    (h : s.mod.mopen = true) (hrun : hostRun s (pairs.map (fun p => Instr.modWord p.2 p.1)) = .ok (t, rs)) :
    responseBytes rs = pairs.flatMap (fun p => wordBytes (fmWord p.1 p.2)) := by
  induction pairs generalizing s rs with
  | nil =>
    cases hrun
    rfl
  | cons p pairs ih =>
    have hp := Performs.hostIssue_eq (.modWord p.2 p.1 h) nofun
    simp only [List.map_cons, hostRun, hp] at hrun
    split at hrun
    · cases hrun
    · next t' rs' hrest =>
      cases hrun
      refine congrArg (wordBytes (fmWord p.1 p.2) ++ ·) (ih ?_ hrest)
      exact h

/-- Two pad bytes are the FM word of a zero byte (40_demodulator.md R113). -/
theorem pad_eq_fmWords (n : Nat) :
    List.replicate (2 * n) 0x55#8 =
      (List.replicate n (0x00#8, false)).flatMap (fun p => wordBytes (fmWord p.1 p.2)) := by
  have hword : wordBytes (fmWord 0x00#8 false) = [0x55#8, 0x55#8] := by decide
  induction n with
  | zero => rfl
  | succ n ih => rw [Nat.mul_succ, List.replicate_succ, List.replicate_succ, ih, List.replicate_succ,
      List.flatMap_cons, hword, List.cons_append, List.cons_append, List.nil_append]

/-- The contract completes when no block is open, and answers with the FM words and the pad. -/
theorem runEncodeBlock_eq_ok {a : State} (h : a.mod.mopen = false) (pairs : List (Byte × Bool)) :
    ∃ a', runEncodeBlock a pairs = .ok (a', pairs.flatMap (fun p => wordBytes (fmWord p.1 p.2)) ++
      List.replicate (256 - 2 * pairs.length) 0x55#8) ∧ a'.mod.mopen = false := by
  have hbegin := Performs.hostIssue_eq (.modBegin h) nofun
  obtain ⟨t, rs, hwords, hopen, hcnt⟩ := hostRun_modWords pairs
    ⟨{ a.toBlock with mod := { mopen := true, mocnt := 0 } }, [], [.ack]⟩ rfl
  have hbytes := responseBytes_modWords rfl hwords
  have hend := Performs.hostIssue_eq (.modEnd hopen) nofun
  have hpad : t.mod.pad = List.replicate (256 - 2 * pairs.length) 0x55#8 := by
    refine List.eq_replicate_iff.mpr ⟨?_, fun b => Mod.mem_pad⟩
    rw [Mod.pad_length, hcnt]
    simp only [Fin.val_zero]
    omega
  have hrun := hostRun_cons_ok hbegin (hostRun_append_ok hwords (hostRun_cons_ok hend (hostRun_nil _)))
  have hout : responseBytes (.ack :: (rs ++ [.bytes t.mod.pad])) = responseBytes rs ++ t.mod.pad := by
    simp [responseBytes, Response.byteSeq]
  refine ⟨⟨{ t.toBlock with mod := { t.mod with mopen := false } }, [], [.bytes t.mod.pad]⟩, ?_, rfl⟩
  simp only [runEncodeBlock, modBlock, hrun]
  rw [hout, hbytes, hpad]

end Sys2Proof.Machine
end

section
open Sys2Proof Sys2Proof.Machine

/-- Settles O27: after the reset DEM is aligned, and each FM word emits its byte and keeps it aligned. -/
theorem alignedRoundTrip : Obligations.AlignedRoundTrip := by
  intro b pairs
  obtain ⟨t, hrun, hblock⟩ := runDecode_eq_ok b .bitlen2 (pairs.flatMap (fun p => wordBytes (fmWord p.1 p.2)))
  exact ⟨t, _, hrun, (congrArg (fun x : Block => x.dem.obuf) hblock).trans (Dem.obuf_decoded_fmWords pairs)⟩

/-- Settles O28: two pad bytes are the FM word of a zero byte, so decoding a padded block is the round trip of the data
followed by zero bytes. -/
theorem padDecodesToZeros : Obligations.PadDecodesToZeros := by
  refine ⟨by decide, fun a b pairs ha hlen => ?_⟩
  obtain ⟨a', henc, -⟩ := runEncodeBlock_eq_ok ha pairs
  have hn : 256 - 2 * pairs.length = 2 * (128 - pairs.length) := by omega
  rw [hn, pad_eq_fmWords, ← List.flatMap_append] at henc
  obtain ⟨t, out, hrun, hobuf⟩ := alignedRoundTrip b (pairs ++ List.replicate (128 - pairs.length) (0x00#8, false))
  refine ⟨a', _, t, out, henc, hrun, hobuf.trans ?_⟩
  rw [List.map_append, List.map_replicate]
  exact List.take_of_length_le (by simp; omega)
end

section
/-! SUPPORT. The words of one operation: any other word with its OP is illegal (30_encoding.md R83). -/

namespace Sys2Proof.Machine

open Sys2Proof

/-- A word is illegal when it is the word of no command with its OP. -/
theorem raisesIllegal_of_op {w : Word} {op : Nat} (h : w.toNat / 4096 = op)
    (hno : ∀ i : Instr, i.command.op.toNat = op → encode i ≠ w) : RaisesIllegal w := by
  refine raisesIllegal_of_not_decode_ok fun ⟨i, hd⟩ => ?_
  have hw := (decode_eq_ok_iff w i).mp hd
  refine hno i ?_ hw
  rw [(encode_eq_iff i w).mp hw, (Command.ofWord_toNat w).1, h]

/-- The high byte of a command's word is OP, RSV and F. -/
theorem toNat_encode_div (i : Instr) :
    (encode i).toNat / 256 = 16 * i.command.op.toNat + 2 * i.command.rsv.toNat + i.command.f.toNat := by
  obtain ⟨hop, hrsv, hf, -⟩ := Command.ofWord_toNat (encode i)
  rw [← (encode_eq_iff i _).mp rfl] at hop hrsv hf
  omega

/-- DEM after a reset at STEP 1 and the bytes 0x55 and 0x6D, which are the FM word of the flagged sync byte: 0x06 is
emitted, FD/06 stand in the accumulators, and the byte is aligned (40_demodulator.md R102). -/
def Dem.syncDecoded : Dem := { Dem.newTrack .bitlen2 with dacc := 0x06#8, sacc := 0xFD#8, obuf := [0x06#8] }

theorem Dem.feed_syncBytes : ((Dem.newTrack .bitlen2).feed 0x55#8).feed 0x6D#8 = Dem.syncDecoded := by
  have hword : wordBytes (fmWord 0x06#8 true) = [0x55#8, 0x6D#8] := by decide
  have h := Dem.aligned_newTrack.foldl_feed_fmWord 0x06#8 true
  rw [hword] at h
  exact h

theorem performs_demFeed_syncBytes (b : Block) :
    Performs { b with dem := Dem.newTrack .bitlen2 } (.demFeed 0x55#8) .ack
        { b with dem := (Dem.newTrack .bitlen2).feed 0x55#8 } ∧
      Performs { b with dem := (Dem.newTrack .bitlen2).feed 0x55#8 } (.demFeed 0x6D#8) .ack
        { b with dem := Dem.syncDecoded } := by
  rw [← Dem.feed_syncBytes]
  exact ⟨.demFeed (b := { b with dem := _ }) _ rfl, .demFeed (b := { b with dem := _ }) _ (Dem.feed_dinit ..)⟩

/-- The pad of a track-side that holds one byte. -/
theorem Dem.trackSide_of_singleton {d : Dem} {v : Byte} (h : d.obuf = [v]) :
    d.trackSide = v :: List.replicate 3124 0x00#8 := by
  have hpad : config.sideLen - [v].length = 3124 := rfl
  rw [Dem.trackSide, h, hpad, List.singleton_append]

end Sys2Proof.Machine
end

section
open Sys2Proof Sys2Proof.Machine

/-- Settles O18: DEM_RESET's effect for each rate, and its two words, one for each rate. -/
theorem demResetResult : Obligations.DemResetResult := by
  refine ⟨fun rate s => ?_, rfl, rfl, fun w hop h125 h250 => raisesIllegal_of_op hop fun i hi hw => ?_⟩
  · cases rate <;> rfl
  · cases i with
    | demReset rate =>
      cases rate with
      | bitlen2 => exact h125 hw.symm
      | bitlen4 => exact h250 hw.symm
    | _ => simp [Instr.command] at hi

/-- Settles O19: DEM_FEED folds the cell step over the samples that STEP selects, and its words have 0x20 as their high
byte. -/
theorem demFeedResult : Obligations.DemFeedResult := by
  refine ⟨fun raw s h => ?_, fun raw s h => (Fails.demFeed h).exec_eq s.cmds s.resps,
    fun raw => (decode_eq_ok_iff _ _).mpr (by simp [encode, Instr.command, Command.toWord]), fun w hop hhigh => ?_,
    fun ⟨b, cs, rs⟩ => ?_⟩
  · refine ((Performs.demFeed raw h).exec_eq s.cmds s.resps).trans ?_
    rw [Dem.feed]
    cases s.dem.step <;> rfl
  · refine raisesIllegal_of_op hop fun i hi hw => ?_
    cases i with
    | demFeed raw => exact hhigh (hw ▸ toNat_encode_div (.demFeed raw))
    | _ => simp [Instr.command] at hi
  · have hreset := (Performs.demReset (b := b) .bitlen2).exec_eq cs rs
    obtain ⟨hfeed, hfeed'⟩ := performs_demFeed_syncBytes b
    exact ⟨_, _, _, hreset, hfeed.exec_eq cs _, hfeed'.exec_eq cs _, rfl, rfl, rfl, rfl, rfl⟩

/-- Settles O25: DEM_FINISH responds the padded OBUF, and its one word is that of the one command with its OP. -/
theorem demFinishResult : Obligations.DemFinishResult := by
  refine ⟨fun s h => (Performs.demFinish h).exec_eq s.cmds s.resps,
    fun s h => (Fails.demFinish h).exec_eq s.cmds s.resps, fun s h => ?_, fun b => ?_, rfl, fun w hop hne => ?_⟩
  · rw [List.length_append, List.length_replicate, Nat.add_sub_of_le h]
  · have hreset := Performs.hostIssue_eq (s := b) (.demReset .bitlen2) nofun
    obtain ⟨hfeed, hfeed'⟩ := performs_demFeed_syncBytes b.toBlock
    have hfinish := Performs.demFinish (b := { b.toBlock with dem := Dem.syncDecoded }) rfl
    rw [Dem.trackSide_of_singleton rfl] at hfinish
    exact ⟨_, hostRun_cons_ok hreset (hostRun_cons_ok (hfeed.hostIssue_eq (s := ⟨_, [], _⟩) nofun)
      (hostRun_cons_ok (hfeed'.hostIssue_eq (s := ⟨_, [], _⟩) nofun)
        (hostRun_cons_ok (hfinish.hostIssue_eq (s := ⟨_, [], _⟩) nofun) (hostRun_nil _))))⟩
  · refine raisesIllegal_of_op hop fun i hi hw => ?_
    cases i with
    | demFinish => exact hne hw.symm
    | _ => simp [Instr.command] at hi
end

section
/-! SUPPORT. STEP enters a decode only through the samples it selects (40_demodulator.md R115). -/

namespace Sys2Proof.Machine

open Sys2Proof

theorem Dem.foldl_cellStep_withStep (bs : List Bool) (d : Dem) (st : SampleStep) :
    bs.foldl Dem.cellStep { d with step := st } = { bs.foldl Dem.cellStep d with step := st } := by
  induction bs generalizing d with
  | nil => rfl
  | cons b bs ih => exact ih (d.cellStep b)

theorem Dem.decoded_eq_foldl_samples (rate : Rate) (raw : List Byte) :
    Dem.decoded rate raw = (raw.flatMap (samples (stepOfRate rate))).foldl Dem.cellStep (Dem.newTrack rate) :=
  Dem.foldl_feed raw (Dem.newTrack rate)

/-- Two decodes whose samples are the same emit the same bytes, whatever the rates. -/
theorem Dem.obuf_decoded_of_samples_eq {rate rate' : Rate} {raw raw' : List Byte}
    (h : raw.flatMap (samples (stepOfRate rate)) = raw'.flatMap (samples (stepOfRate rate'))) :
    (Dem.decoded rate raw).obuf = (Dem.decoded rate' raw').obuf := by
  rw [Dem.decoded_eq_foldl_samples, Dem.decoded_eq_foldl_samples, h]
  exact (congrArg Dem.obuf (Dem.foldl_cellStep_withStep _ (Dem.newTrack rate') (stepOfRate rate)) :)

/-- The odd bits of two bytes at STEP 2 are the bits of one byte at STEP 1. -/
theorem flatMap_samples_two_eq {raw2 raw4 : List Byte} (hlen : raw4.length = 2 * raw2.length)
    (h : ∀ j, j < 8 * raw2.length →
      (raw4.getD (j / 4) 0#8).getLsbD (2 * (j % 4) + 1) = (raw2.getD (j / 8) 0#8).getLsbD (j % 8)) :
    raw4.flatMap (samples .two) = raw2.flatMap (samples .one) := by
  induction raw2 generalizing raw4 with
  | nil => rw [List.eq_nil_of_length_eq_zero hlen]; rfl
  | cons x raw2 ih =>
    obtain ⟨y, z, raw4, rfl⟩ : ∃ y z rest, raw4 = y :: z :: rest := by
      match raw4, hlen with
      | y :: z :: rest, _ => exact ⟨y, z, rest, rfl⟩
    have htail := ih (raw4 := raw4) (by simpa [Nat.mul_succ] using hlen) fun j hj => by
      have hj8 := h (j + 8) (by simp only [List.length_cons]; omega)
      rwa [show (j + 8) / 4 = j / 4 + 2 by omega, show (j + 8) / 8 = j / 8 + 1 by omega, Nat.add_mod_right,
        show (j + 8) % 4 = j % 4 by omega] at hj8
    have hhead : samples .two y ++ samples .two z = samples .one x := by
      refine List.map_congr_left (l := List.range 8) fun j hj => h j ?_
      have := List.mem_range.mp hj
      simp only [List.length_cons]
      omega
    rw [List.flatMap_cons, List.flatMap_cons, List.flatMap_cons, htail, ← List.append_assoc, hhead]

end Sys2Proof.Machine
end

section
/-! SUPPORT. A unit's command looks at its own unit's state and changes no other's (40_demodulator.md R100,
41_modulator.md R130, 42_sector_locator.md R150). -/

namespace Sys2Proof.Machine

open Sys2Proof

variable {b b' b₂ : Block} {i : Instr} {r : Response} {c : ErrCode}

/-- Agreement on a unit, as a relation on the record: the channels do not enter it. -/
def Block.AgreeOn (u : BlockUnit) (b b₂ : Block) : Prop := Machine.AgreeOn u ⟨b, [], []⟩ ⟨b₂, [], []⟩

theorem agreeOn_iff_toBlock (u : BlockUnit) (s t : State) : AgreeOn u s t ↔ s.toBlock.AgreeOn u t.toBlock := by
  cases u <;> exact Iff.rfl

/-- A command leaves the units it does not address as they were. -/
theorem Performs.keeps_other_units (h : Performs b i r b') :
    (unitOf i ≠ .dem → b'.dem = b.dem) ∧ (unitOf i ≠ .mod → b'.mod = b.mod) ∧
      (unitOf i ≠ .ssl → b'.ssl = b.ssl) := by
  cases h with
  | fails _ | demFinish _ | regRead _ => exact ⟨fun _ => rfl, fun _ => rfl, fun _ => rfl⟩
  | demReset _ | demFeed _ _ => exact ⟨fun hu => absurd rfl hu, fun _ => rfl, fun _ => rfl⟩
  | modBegin _ | modWord _ _ _ | modEnd _ => exact ⟨fun _ => rfl, fun hu => absurd rfl hu, fun _ => rfl⟩
  | sslClear | sslLoad _ _ | sslLocate _ _ => exact ⟨fun _ => rfl, fun _ => rfl, fun hu => absurd rfl hu⟩

/-- The error conditions of a unit's commands are conditions on that unit. -/
theorem Fails.of_agreeOn (h : Fails b i c) (hu : unitOf i ≠ .reg) (ha : b.AgreeOn (unitOf i) b₂) :
    Fails b₂ i c := by
  cases h with
  | demFeed h => exact .demFeed (ha ▸ h)
  | demFinish h => exact .demFinish (ha ▸ h)
  | modBegin h => exact .modBegin (ha ▸ h)
  | modWord h => exact .modWord (ha ▸ h)
  | modEnd h => exact .modEnd (ha ▸ h)
  | sslLoad h => exact .sslLoad (ha ▸ h)
  | sslLocate h => exact .sslLocate (ha ▸ h)
  | regRead _ => exact absurd rfl hu

theorem Block.AgreeOn.withErrs {u : BlockUnit} (ha : b.AgreeOn u b₂) (hu : u ≠ .reg) (e e₂ : Errs) :
    Block.AgreeOn u { b with errs := e } { b₂ with errs := e₂ } := by
  cases u with
  | reg => exact absurd rfl hu
  | _ => exact ha

/-- A unit's command responds the same, and does the same to its unit, in any record that agrees on the unit. -/
theorem Performs.of_agreeOn (h : Performs b i r b') (hu : unitOf i ≠ .reg) (ha : b.AgreeOn (unitOf i) b₂) :
    ∃ b₂', Performs b₂ i r b₂' ∧ b'.AgreeOn (unitOf i) b₂' := by
  obtain ⟨dem, mod, ssl, errs⟩ := b
  obtain ⟨dem₂, mod₂, ssl₂, errs₂⟩ := b₂
  cases h with
  | fails h => exact ⟨_, .fails (h.of_agreeOn hu ha), ha.withErrs hu _ _⟩
  | demReset rate => exact ⟨_, .demReset rate, rfl⟩
  | demFeed raw h =>
    obtain rfl : dem = dem₂ := ha
    exact ⟨_, .demFeed raw h, rfl⟩
  | demFinish h =>
    obtain rfl : dem = dem₂ := ha
    exact ⟨_, .demFinish h, rfl⟩
  | modBegin h =>
    obtain rfl : mod = mod₂ := ha
    exact ⟨_, .modBegin h, rfl⟩
  | modWord sync data h =>
    obtain rfl : mod = mod₂ := ha
    exact ⟨_, .modWord sync data h, rfl⟩
  | modEnd h =>
    obtain rfl : mod = mod₂ := ha
    exact ⟨_, .modEnd h, rfl⟩
  | sslClear =>
    obtain rfl : ssl = ssl₂ := ha
    exact ⟨_, .sslClear, rfl⟩
  | sslLoad data h =>
    obtain rfl : ssl = ssl₂ := ha
    exact ⟨_, .sslLoad (b := ⟨dem₂, mod₂, ssl, errs₂⟩) data h, rfl⟩
  | sslLocate la h =>
    obtain rfl : ssl = ssl₂ := ha
    exact ⟨_, .sslLocate la h, rfl⟩
  | regRead _ => exact absurd rfl hu

end Sys2Proof.Machine
end

section
open Sys2Proof Sys2Proof.Machine

/-- Settles O29: the two streams have the same samples. -/
theorem doubleRateEquivalence : Obligations.DoubleRateEquivalence := by
  intro b b' raw2 raw4 hlen h
  obtain ⟨t, hrun, hblock⟩ := runDecode_eq_ok b .bitlen2 raw2
  obtain ⟨t', hrun', hblock'⟩ := runDecode_eq_ok b' .bitlen4 raw4
  have hobuf : (Dem.decoded .bitlen2 raw2).obuf = (Dem.decoded .bitlen4 raw4).obuf :=
    Dem.obuf_decoded_of_samples_eq (flatMap_samples_two_eq hlen h).symm
  have hout : (Dem.decoded .bitlen4 raw4).trackSide = (Dem.decoded .bitlen2 raw2).trackSide := by
    rw [Dem.trackSide, Dem.trackSide, hobuf]
  have hdem := congrArg (fun x : Block => x.dem.obuf) hblock
  have hdem' := congrArg (fun x : Block => x.dem.obuf) hblock'
  exact ⟨t, t', _, hrun, hout ▸ hrun', hdem.trans (hobuf.trans hdem'.symm)⟩

/-- Settles O50: a command's frame, its error record, and its run on a record that agrees on its unit. -/
theorem unitsShareNoState : Obligations.UnitsShareNoState := by
  rintro i ⟨b, cs, rs⟩ t hu hexec
  obtain ⟨r, b', h⟩ := exists_performs b i
  cases (h.exec_eq cs rs).symm.trans hexec
  obtain ⟨hdem, hmod, hssl⟩ := h.keeps_other_units
  refine ⟨hdem, hmod, hssl, fun hne => ?_, fun s' ha => ?_⟩
  · rcases h.errs_cases with ⟨c, rfl, -⟩ | ⟨-, he⟩
    · exact absurd ⟨c, rfl⟩ hne
    · exact he
  · obtain ⟨b₂', h₂, ha₂⟩ := h.of_agreeOn hu ((agreeOn_iff_toBlock _ _ _).mp ha)
    exact ⟨_, r, h₂.exec_eq s'.cmds s'.resps, (agreeOn_iff_toBlock _ _ _).mpr ha₂, rfl, rfl⟩
end

section
/-! SUPPORT. FmWord as a number and cell by cell (41_modulator.md R132, R136; 30_encoding.md R89), and the two bytes
of a word as its truncation and that of its shift (20_memory.md R63). -/

namespace Sys2Proof.Machine

open Sys2Proof

/-- One pass of FmWord's loop loses no bit of a word below 2^14. -/
theorem toNat_fmShift {w : Word} (h : w.toNat < 2 ^ 14) (b : Bool) :
    (fmShift w b).toNat = 4 * w.toNat + (2 * b.toNat + 1) := by
  have hshift : w.toNat <<< 2 < 2 ^ 16 := by rw [Nat.shiftLeft_eq]; omega
  have hcell : (if b then 3#16 else 1#16).toNat = 2 * b.toNat + 1 := by cases b <;> rfl
  have hlt : 2 * b.toNat + 1 < 2 ^ 2 := by cases b <;> decide
  rw [fmShift, BitVec.toNat_or, BitVec.toNat_shiftLeft, Nat.mod_eq_of_lt hshift, hcell,
    ← Nat.shiftLeft_add_eq_or_of_lt hlt, Nat.shiftLeft_eq]
  omega

/-- The loop loses no bit as long as its steps of two bits fit in the word. -/
theorem toNat_foldl_fmShift (bs : List Bool) (w : Word) (h : (w.toNat + 1) * 4 ^ bs.length ≤ 2 ^ 16) :
    (bs.foldl fmShift w).toNat = bs.foldl (fun n b => 4 * n + (2 * b.toNat + 1)) w.toNat := by
  induction bs generalizing w with
  | nil => rfl
  | cons b bs ih =>
    have hb := b.toNat_le
    have hpos : 1 ≤ 4 ^ bs.length := Nat.one_le_pow _ _ (by decide)
    rw [List.length_cons, pow_succ] at h
    have hw := toNat_fmShift (w := w) (by nlinarith) b
    rw [List.foldl_cons, List.foldl_cons, ih (fmShift w b) (by rw [hw]; nlinarith), hw]

/-- The loop leaves the bits in the odd cells, the last one lowest, each above a clock cell that is 1. -/
theorem getLsbD_foldl_fmShift (bs : List Bool) (w : Word) (hlen : bs.length ≤ 8) {k : Nat} (hk : k < bs.length) :
    (bs.foldl fmShift w).getLsbD (2 * k + 1) = bs[bs.length - 1 - k] ∧
      (bs.foldl fmShift w).getLsbD (2 * k) = true := by
  induction bs using List.reverseRecOn generalizing k with
  | nil => cases hk
  | append_singleton bs b ih =>
    rw [List.foldl_append, List.foldl_cons, List.foldl_nil, getLsbD_fmShift, getLsbD_fmShift]
    rw [List.length_append, List.length_singleton] at hlen hk
    cases k with
    | zero => simp
    | succ k =>
      obtain ⟨hdata, hclock⟩ := ih (by omega) (k := k) (by omega)
      have hi : (bs ++ [b]).length - 1 - (k + 1) = bs.length - 1 - k := by simp; omega
      simp only [hi]
      rw [List.getElem_append_left (by omega), ← hdata, ← hclock]
      have hodd : 2 * k + 3 < 16 := by omega
      have heven : 2 * k + 2 < 16 := by omega
      simp [Nat.mul_succ, hodd, heven]

theorem getLsbD_fmPlain (d : Byte) {k : Nat} (hk : k < 8) :
    (fmPlain d).getLsbD (2 * k + 1) = d.getLsbD (7 - k) ∧ (fmPlain d).getLsbD (2 * k) = true := by
  have h := getLsbD_foldl_fmShift ((List.range 8).map (fun i => d.getLsbD i)) 0#16 (by simp) (k := k) (by simpa)
  simpa [fmPlain] using h

/-- Clock cell c1, bit 12, is set in the plain word, so masking it off subtracts it (41_modulator.md R136). -/
theorem fmWord_true_eq_sub (d : Byte) : fmWord d true = fmPlain d - 0x1000#16 := by
  have hbit : (fmPlain d).getLsbD 12 = true := (getLsbD_fmPlain d (k := 6) (by decide)).2
  have hset : fmPlain d &&& 0x1000#16 = 0x1000#16 := by
    have h := BitVec.and_twoPow (fmPlain d) 12
    rwa [if_pos hbit] at h
  have hsum : (fmPlain d &&& 0xEFFF#16) + 0x1000#16 = fmPlain d :=
    calc (fmPlain d &&& 0xEFFF#16) + 0x1000#16
        = (fmPlain d &&& 0xEFFF#16) ||| (fmPlain d &&& 0x1000#16) := by
          rw [hset, BitVec.add_eq_or_of_and_eq_zero _ _ (by rw [BitVec.and_assoc]; exact BitVec.and_zero)]
      _ = fmPlain d := by rw [← BitVec.and_or_distrib_left]; exact BitVec.and_allOnes
  exact BitVec.eq_sub_iff_add_eq.mpr hsum

theorem wordBytes_eq_setWidth (w : Word) : wordBytes w = [w.setWidth 8, (w >>> 8).setWidth 8] := by
  rw [wordBytes, lowByte, highByte, BitVec.setWidth_ushiftRight_eq_extractLsb,
    BitVec.setWidth_eq_extractLsb' (by decide)]

end Sys2Proof.Machine
end

section
open Sys2Proof Sys2Proof.Machine

/-- Settles O36: the contract's FM words and pad, and the pad's length as what is missing up to 256. -/
theorem encodeBlockResult : Obligations.EncodeBlockResult := by
  intro b pairs hb
  obtain ⟨t, hrun, hclosed⟩ := runEncodeBlock_eq_ok hb pairs
  simp only [wordBytes_eq_setWidth] at hrun
  refine ⟨t, _, hrun, hclosed, rfl, ?_⟩
  simp only [List.length_append, List.length_flatMap, List.length_replicate, List.length_cons, List.length_nil,
    List.map_const', List.sum_replicate, smul_eq_mul]
  omega

/-- Settles O30: the loop's eight steps of two bits fill the word, and its Horner form is the sum. -/
theorem fmWordClosedForm : Obligations.FmWordClosedForm := by
  refine fun d => ⟨(toNat_foldl_fmShift _ 0#16 (by simp)).trans ?_, rfl⟩
  simp only [List.range_succ, List.range_zero, List.nil_append, List.cons_append, List.map_cons, List.map_nil,
    List.foldl_cons, List.foldl_nil, List.sum_cons, List.sum_nil, BitVec.toNat_zero]
  ring

/-- Settles O31: the cells of the plain word, of which the flag's mask clears bit 12, a clock cell, alone. -/
theorem clockSuppression : Obligations.ClockSuppression := by
  refine fun d => ⟨fmWord_true_eq_sub d, fun sync k hk => ?_⟩
  obtain ⟨hdata, hclock⟩ := getLsbD_fmPlain d hk
  rw [getLsbD_fmWord d sync (by omega), getLsbD_fmWord d sync (by omega), hdata, hclock]
  have hodd : (2 * k + 1 == 12) = false := by simp; omega
  have heven : (2 * k == 12) = (k == 6) := by rw [Bool.eq_iff_iff, beq_iff_eq, beq_iff_eq]; omega
  simp [hodd, heven]

/-- Settles O32: MOD_BEGIN's two cases, and its one word is that of the one command with its OP. -/
theorem modBeginResult : Obligations.ModBeginResult := by
  refine ⟨fun s h => (Performs.modBegin h).exec_eq s.cmds s.resps,
    fun s h => (Fails.modBegin h).exec_eq s.cmds s.resps, rfl, rfl, fun w hop hne => ?_⟩
  refine raisesIllegal_of_op hop fun i hi hw => ?_
  cases i with
  | modBegin => exact hne hw.symm
  | _ => simp [Instr.command] at hi

/-- Settles O33: MOD_WORD's two cases; its words have 0x50 or 0x51 as their high byte, and a word with another RSV is no
command's. -/
theorem modWordResult : Obligations.ModWordResult := by
  refine ⟨fun sync d s h => ?_, fun sync d s h => (Fails.modWord h).exec_eq s.cmds s.resps, fun d => ⟨?_, ?_⟩,
    fun w _ hrsv => ?_, by decide, by decide, by decide, by decide, by decide⟩
  · exact ⟨_, (Performs.modWord sync d h).exec_eq s.cmds s.resps, h, s.mod.countWord_val,
      by rw [wordBytes_eq_setWidth], rfl, rfl, rfl, rfl⟩
  · exact (decode_eq_ok_iff _ _).mpr (by simp [encode, Instr.command, Command.toWord])
  · exact (decode_eq_ok_iff _ _).mpr (by simp [encode, Instr.command, Command.toWord])
  · exact raisesIllegal_of_not_decode_ok fun hd =>
      (Command.wellFormed_ofWord_iff w).mp ((exists_decode_ok_iff_wellFormed w).mp hd) (.inr (.inr (.inl hrsv)))

/-- Settles O34: MOD_END's two cases, the block of one zero byte, and its one word is that of the one command with its
OP. -/
theorem modEndResult : Obligations.ModEndResult := by
  refine ⟨fun s h => (Performs.modEnd h).exec_eq s.cmds s.resps,
    fun s h => (Fails.modEnd h).exec_eq s.cmds s.resps, fun b hb => ?_, rfl, fun w hop hne => ?_⟩
  · have hbegin := Performs.hostIssue_eq (.modBegin hb) nofun
    have hword := Performs.modWord (b := { b.toBlock with mod := { mopen := true, mocnt := 0 } }) false 0x00#8 rfl
    have hbytes : wordBytes (fmWord 0x00#8 false) = [0x55#8, 0x55#8] := by decide
    rw [hbytes] at hword
    have hend := Performs.modEnd (b := { b.toBlock with mod := { mopen := true, mocnt := 2 } }) rfl
    exact ⟨_, hostRun_cons_ok hbegin (hostRun_cons_ok (hword.hostIssue_eq (s := ⟨_, [], _⟩) nofun)
      (hostRun_cons_ok (hend.hostIssue_eq (s := ⟨_, [], _⟩) nofun) (hostRun_nil _)))⟩
  · refine raisesIllegal_of_op hop fun i hi hw => ?_
    cases i with
    | modEnd => exact hne hw.symm
    | _ => simp [Instr.command] at hi
end

section
/-! SUPPORT. Where FindPat finds a pattern and what MarkRun marks, index by index (42_sector_locator.md R151, R154). -/

namespace Sys2Proof.Machine

open Sys2Proof

theorem Memory.holdsAt_iff_getD (t : Memory) (i : Nat) (pat : List Byte) :
    t.holdsAt i pat = true ↔ ∀ k, k < pat.length → t.read (i + k) = pat.getD k 0#8 := by
  rw [Memory.holdsAt_iff]
  exact forall₂_congr fun k hk => by rw [List.getD_eq_getElem _ _ hk]

/-- The pattern occurs at offset `p` from the cursor, wholly inside the clipped window (42_sector_locator.md R151). -/
def Memory.OccursInWindow (t : Memory) (c w : Nat) (pat : List Byte) (p : Nat) : Prop :=
  c + p + pat.length ≤ min (c + w) 3125 ∧ t.holdsAt (c + p) pat = true

section
variable {t : Memory} {c w : Nat} {pat : List Byte}

/-- An occurrence of a pattern that is not empty starts inside the window. -/
theorem Memory.OccursInWindow.lt {p : Nat} (h : t.OccursInWindow c w pat p) (hpat : 0 < pat.length) : p < w := by
  have := h.1
  omega

theorem findPat_eq_some_iff (hpat : 0 < pat.length) (p : Nat) :
    findPat t c w pat = some p ↔ t.OccursInWindow c w pat p ∧ ∀ q, q < p → ¬ t.OccursInWindow c w pat q := by
  rw [findPat, List.find?_range_eq_some]
  simp only [Bool.not_eq_true', Bool.and_eq_true, decide_eq_true_eq, ← Bool.not_eq_true, List.mem_range]
  exact ⟨fun ⟨hp, _, hq⟩ => ⟨hp, hq⟩, fun ⟨hp, hq⟩ => ⟨hp, hp.lt hpat, hq⟩⟩

theorem findPat_eq_none_iff (hpat : 0 < pat.length) :
    findPat t c w pat = none ↔ ∀ p, ¬ t.OccursInWindow c w pat p := by
  rw [findPat, List.find?_range_eq_none]
  simp only [Bool.not_eq_true', Bool.and_eq_true, decide_eq_true_eq, ← Bool.not_eq_true]
  exact ⟨fun h p hp => h p (hp.lt hpat) hp, fun h p _ => h p⟩

/-- From 3125 on the window is empty. -/
theorem findPat_eq_none_of_ge (hpat : 0 < pat.length) (hc : 3125 ≤ c) : findPat t c w pat = none :=
  (findPat_eq_none_iff hpat).mpr fun p ⟨hend, _⟩ => by omega

theorem Memory.occursInWindow_iff (p : Nat) :
    t.OccursInWindow c w pat p ↔
      c + p + pat.length ≤ min (c + w) 3125 ∧ ∀ i, i < pat.length → t.read (c + p + i) = pat.getD i 0#8 := by
  rw [Memory.OccursInWindow, Memory.holdsAt_iff_getD]

/-- Inside the window, an offset without an occurrence has a byte that differs from the pattern's. -/
theorem Memory.not_occursInWindow_iff (p : Nat) :
    ¬ t.OccursInWindow c w pat p ↔ (c + p + pat.length ≤ min (c + w) 3125 →
      ∃ i, i < pat.length ∧ t.read (c + p + i) ≠ pat.getD i 0#8) := by
  simp only [Memory.occursInWindow_iff, not_and, not_forall, exists_prop, ne_eq]

end

/-- The marking loop marks the indices from its start to its end, and no others. -/
theorem markFrom_getLsbD (t : Memory) (n : Nat) (m : Mask) (i j : Nat) (hi : i + n ≤ 3125) :
    (markFrom t n m i).1.getLsbD j =
      (m.getLsbD j || (decide (i ≤ j) && decide (j < (markFrom t n m i).2))) := by
  induction n generalizing m i with
  | zero =>
    have hnone : ¬ (i ≤ j ∧ j < i) := by omega
    rw [markFrom, ← Bool.decide_and, decide_eq_false hnone, Bool.or_false]
  | succ n ih =>
    have hend := (markFrom_end t n (markAt m i) (i + 1)).1
    rw [markFrom]
    split
    · rw [ih _ _ (by omega), markAt_getLsbD _ _ _ (by omega), Bool.or_assoc]
      congr 1
      rw [← Bool.decide_and, ← Bool.decide_and, ← Bool.decide_or]
      exact decide_eq_decide.mpr (by omega)
    · have hnone : ¬ (i ≤ j ∧ j < i) := by omega
      rw [← Bool.decide_and, decide_eq_false hnone, Bool.or_false]

/-- The marking loop goes over bytes 0x06, and ends at another byte or after its last index. -/
theorem markFrom_run (t : Memory) (n : Nat) (m : Mask) (i : Nat) :
    (∀ j, i ≤ j → j < (markFrom t n m i).2 → t.read j = 0x06#8) ∧
      ((markFrom t n m i).2 < i + n → t.read (markFrom t n m i).2 ≠ 0x06#8) := by
  induction n generalizing m i with
  | zero => exact ⟨fun j hj hlt => absurd hj (Nat.not_le.mpr hlt), fun h => absurd h (Nat.lt_irrefl i)⟩
  | succ n ih =>
    rw [markFrom]
    split
    · next hrun =>
      obtain ⟨hbytes, hstop⟩ := ih (markAt m i) (i + 1)
      refine ⟨fun j hj hlt => ?_, fun hlt => hstop (by omega)⟩
      rcases hj.eq_or_lt with rfl | hj
      · exact hrun
      · exact hbytes j hj hlt
    · next hrun => exact ⟨fun j hj hlt => absurd hj (Nat.not_le.mpr hlt), fun _ => hrun⟩

/-- MarkRun marks from its start up to the index it returns. -/
theorem markRun_getLsbD (t : Memory) (m : Mask) {s : Nat} (h : s < 3125) (i : Nat) :
    (markRun t m s).1.getLsbD i = (m.getLsbD i || (decide (s ≤ i) && decide (i < (markRun t m s).2))) := by
  have hend := (markRun_end t m h).1
  have hrest := markFrom_getLsbD t (3125 - (s + 1)) (markAt m s) (s + 1) i (by omega)
  rw [markAt_getLsbD _ _ _ h, Bool.or_assoc] at hrest
  refine hrest.trans (congrArg _ ?_)
  rw [← Bool.decide_and, ← Bool.decide_and, ← Bool.decide_or]
  refine decide_eq_decide.mpr ?_
  change _ ∨ _ ∧ i < (markRun t m s).2 ↔ _
  omega

/-- The run after its start is made of bytes 0x06, and ends at another byte or at the side's end. -/
theorem markRun_run (t : Memory) (m : Mask) {s : Nat} (h : s < 3125) :
    (∀ i, s < i → i < (markRun t m s).2 → t.read i = 0x06#8) ∧
      ((markRun t m s).2 < 3125 → t.read (markRun t m s).2 ≠ 0x06#8) := by
  obtain ⟨hbytes, hstop⟩ := markFrom_run t (3125 - (s + 1)) (markAt m s) (s + 1)
  rw [Nat.add_sub_cancel' h] at hstop
  exact ⟨hbytes, hstop⟩

end Sys2Proof.Machine
end

section
open Sys2Proof Sys2Proof.Machine

/-- Settles O37: FindPat answers the first offset with an occurrence, which the statement words byte by byte. -/
theorem findPatFirstInWindow : Obligations.FindPatFirstInWindow := by
  intro t c w pat hlen
  have hpat : 0 < pat.length := by omega
  refine ⟨fun p => ?_, ?_, fun hc => ?_⟩
  · rw [findPat_eq_some_iff hpat, Memory.occursInWindow_iff]
    refine and_congr_right fun hp => forall₂_congr fun q hq => ?_
    rw [Memory.not_occursInWindow_iff]
    exact forall_prop_of_true (by omega)
  · simp only [findPat_eq_none_iff hpat, Memory.not_occursInWindow_iff]
  · exact findPat_eq_none_of_ge hpat hc

/-- Settles O38 from what the marking loop passes over and what it marks. -/
theorem markRunMarksTheRun : Obligations.MarkRunMarksTheRun := by
  intro t m s h
  obtain ⟨hlt, hle⟩ := markRun_end t m h
  obtain ⟨hbytes, hstop⟩ := markRun_run t m h
  exact ⟨hlt, hle, hbytes, hstop, markRun_getLsbD t m h⟩
end

section
/-! SUPPORT. The loop of LocateScan against the rules' case-by-case scan (42_sector_locator.md R155, R158 … R162): each
case fixes what the loop does, and some case always applies. -/

namespace Sys2Proof.Machine

open Sys2Proof

section
variable {t : Memory} {m m₁ m₂ : Mask} {c p c₁ q u c₂ v : Nat}

theorem sectorStep1_of_noRun1 (h₁ : findPat t c 100 [0x06#8, 0x06#8, 0x06#8] = none) :
    sectorStep1 t m c = { mask := m, cursor := c, stopped := some .noRun1 } := by
  simp [sectorStep1, h₁]

theorem sectorStep1_of_noMarkA (h₁ : findPat t c 100 [0x06#8, 0x06#8, 0x06#8] = some p)
    (hr₁ : markRun t m (c + p) = (m₁, c₁)) (h₂ : findPat t c₁ 10 [0xEA#8, 0xD3#8] = none) :
    sectorStep1 t m c = { mask := m₁, cursor := c₁, stopped := some .noMarkA } := by
  simp [sectorStep1, sectorStep2, h₁, hr₁, h₂]

/-- Past MARK_A, a sector goes as step 3 does from 7 past its offset. -/
theorem sectorStep1_of_markA (h₁ : findPat t c 100 [0x06#8, 0x06#8, 0x06#8] = some p)
    (hr₁ : markRun t m (c + p) = (m₁, c₁)) (h₂ : findPat t c₁ 10 [0xEA#8, 0xD3#8] = some q) :
    sectorStep1 t m c = sectorStep3 t m₁ (c₁ + q + 7) := by
  simp [sectorStep1, sectorStep2, h₁, hr₁, h₂]

theorem sectorStep3_of_noRun2 (h₃ : findPat t c 20 [0x06#8, 0x06#8, 0x06#8] = none) :
    sectorStep3 t m c = { mask := m, cursor := c, stopped := some .noRun2 } := by
  simp [sectorStep3, h₃]

theorem sectorStep3_of_noMarkB (h₃ : findPat t c 20 [0x06#8, 0x06#8, 0x06#8] = some u)
    (hr₂ : markRun t m (c + u) = (m₂, c₂)) (h₄ : findPat t c₂ 20 [0xDD#8, 0xF3#8] = none) :
    sectorStep3 t m c = { mask := m₂, cursor := c₂, stopped := some .noMarkB } := by
  simp [sectorStep3, sectorStep4, h₃, hr₂, h₄]

theorem sectorStep3_of_markB (h₃ : findPat t c 20 [0x06#8, 0x06#8, 0x06#8] = some u)
    (hr₂ : markRun t m (c + u) = (m₂, c₂)) (h₄ : findPat t c₂ 20 [0xDD#8, 0xF3#8] = some v) :
    sectorStep3 t m c = { mask := m₂, cursor := c₂ + v + 2, stopped := none } := by
  simp [sectorStep3, sectorStep4, h₃, hr₂, h₄]

end

section
variable {t : Memory} {la : Strategy} {k n c c' : Nat} {m m' : Mask}

theorem scanFrom_of_bound (h : 3125 ≤ c) :
    scanFrom t la (k + 1) m n c = { mask := m, count := n, cursor := c, stop := .bound } := if_pos h

theorem scanFrom_of_stopped {why : StopReason} (h : c < 3125)
    (hs : sectorStep1 t m c = { mask := m', cursor := c', stopped := some why }) :
    scanFrom t la (k + 1) m n c = { mask := m', count := n, cursor := c', stop := why } := by
  simp [scanFrom, hs, Nat.not_le.mpr h]

/-- A complete sector is counted; after the fifth the scan is done, before it the payload is skipped. -/
theorem scanFrom_of_last (h : c < 3125) (hs : sectorStep1 t m c = { mask := m', cursor := c', stopped := none }) :
    scanFrom t la 1 m n c = { mask := m', count := n + 1, cursor := c', stop := .done } := by
  simp [scanFrom, hs, Nat.not_le.mpr h]

theorem scanFrom_of_lenOob (h : c < 3125) (hs : sectorStep1 t m c = { mask := m', cursor := c', stopped := none })
    (hp : payloadSkip t la c' = none) :
    scanFrom t la (k + 2) m n c = { mask := m', count := n + 1, cursor := c', stop := .lenOob } := by
  rw [scanFrom]
  simp [hs, Nat.not_le.mpr h, hp]

theorem scanFrom_of_skip {c'' : Nat} (h : c < 3125)
    (hs : sectorStep1 t m c = { mask := m', cursor := c', stopped := none }) (hp : payloadSkip t la c' = some c'') :
    scanFrom t la (k + 2) m n c = scanFrom t la (k + 1) m' (n + 1) c'' := by
  rw [scanFrom]
  simp [hs, Nat.not_le.mpr h, hp]

end

theorem payloadSkip_fixed (t : Memory) (c : Nat) : payloadSkip t .fixed c = some (c + 530) := rfl

theorem payloadSkip_lengthAware_of_le (t : Memory) {c : Nat} (h : 3125 ≤ c + 1) :
    payloadSkip t .lengthAware c = none := if_pos h

theorem payloadSkip_lengthAware_of_lt (t : Memory) {c : Nat} (h : c + 1 < 3125) :
    payloadSkip t .lengthAware c = some (c + ((t.read c).toNat + 256 * (t.read (c + 1)).toNat) + 30) :=
  if_neg (Nat.not_le.mpr h)

/-- Whatever the rules' scan ends in, the loop ends in. -/
theorem ScanRuns.scanFrom_eq {t : Memory} {la : Strategy} {m : Mask} {n c : Nat} {r : Scan}
    (hrun : ScanRuns t la m n c r) {k : Nat} (hk : n + k = 4) : scanFrom t la (k + 1) m n c = r := by
  induction hrun generalizing k with
  | bound h => exact scanFrom_of_bound h
  | noRun1 h h₁ => exact scanFrom_of_stopped h (sectorStep1_of_noRun1 h₁)
  | noMarkA h h₁ hr₁ h₂ => exact scanFrom_of_stopped h (sectorStep1_of_noMarkA h₁ hr₁ h₂)
  | noRun2 h h₁ hr₁ h₂ h₃ =>
    exact scanFrom_of_stopped h ((sectorStep1_of_markA h₁ hr₁ h₂).trans (sectorStep3_of_noRun2 h₃))
  | noMarkB h h₁ hr₁ h₂ h₃ hr₂ h₄ =>
    exact scanFrom_of_stopped h ((sectorStep1_of_markA h₁ hr₁ h₂).trans (sectorStep3_of_noMarkB h₃ hr₂ h₄))
  | done h h₁ hr₁ h₂ h₃ hr₂ h₄ =>
    obtain rfl : k = 0 := by omega
    exact scanFrom_of_last h ((sectorStep1_of_markA h₁ hr₁ h₂).trans (sectorStep3_of_markB h₃ hr₂ h₄))
  | lenOob h hn hla h₁ hr₁ h₂ h₃ hr₂ h₄ h₅ =>
    obtain ⟨k, rfl⟩ : ∃ k', k = k' + 1 := Nat.exists_eq_succ_of_ne_zero (by omega)
    have hsector := (sectorStep1_of_markA h₁ hr₁ h₂).trans (sectorStep3_of_markB h₃ hr₂ h₄)
    exact scanFrom_of_lenOob h hsector (hla ▸ payloadSkip_lengthAware_of_le t h₅)
  | skipFixed h hn hla h₁ hr₁ h₂ h₃ hr₂ h₄ _ ih =>
    obtain ⟨k, rfl⟩ : ∃ k', k = k' + 1 := Nat.exists_eq_succ_of_ne_zero (by omega)
    have hsector := (sectorStep1_of_markA h₁ hr₁ h₂).trans (sectorStep3_of_markB h₃ hr₂ h₄)
    exact (scanFrom_of_skip h hsector (hla ▸ payloadSkip_fixed t _)).trans (ih (by omega))
  | skipLength h hn hla h₁ hr₁ h₂ h₃ hr₂ h₄ h₅ _ ih =>
    obtain ⟨k, rfl⟩ : ∃ k', k = k' + 1 := Nat.exists_eq_succ_of_ne_zero (by omega)
    have hsector := (sectorStep1_of_markA h₁ hr₁ h₂).trans (sectorStep3_of_markB h₃ hr₂ h₄)
    exact (scanFrom_of_skip h hsector (hla ▸ payloadSkip_lengthAware_of_lt t h₅)).trans (ih (by omega))

/-- At the head of a sector some case applies, if one does at the head of the next. -/
theorem exists_scanRuns_of_next {t : Memory} {la : Strategy} (m : Mask) {n : Nat} (c : Nat) (hn : n ≤ 4)
    (next : n < 4 → ∀ m' c', ∃ r, ScanRuns t la m' (n + 1) c' r) : ∃ r, ScanRuns t la m n c r := by
  rcases Nat.lt_or_ge c 3125 with h | h
  case inr => exact ⟨_, .bound h⟩
  rcases h₁ : findPat t c 100 [0x06#8, 0x06#8, 0x06#8] with _ | p
  · exact ⟨_, .noRun1 h h₁⟩
  rcases hr₁ : markRun t m (c + p) with ⟨m₁, c₁⟩
  rcases h₂ : findPat t c₁ 10 [0xEA#8, 0xD3#8] with _ | q
  · exact ⟨_, .noMarkA h h₁ hr₁ h₂⟩
  rcases h₃ : findPat t (c₁ + q + 7) 20 [0x06#8, 0x06#8, 0x06#8] with _ | u
  · exact ⟨_, .noRun2 h h₁ hr₁ h₂ h₃⟩
  rcases hr₂ : markRun t m₁ (c₁ + q + 7 + u) with ⟨m₂, c₂⟩
  rcases h₄ : findPat t c₂ 20 [0xDD#8, 0xF3#8] with _ | v
  · exact ⟨_, .noMarkB h h₁ hr₁ h₂ h₃ hr₂ h₄⟩
  rcases hn.eq_or_lt with rfl | hlt
  · exact ⟨_, .done h h₁ hr₁ h₂ h₃ hr₂ h₄⟩
  cases la with
  | fixed =>
    obtain ⟨r, hnext⟩ := next hlt m₂ _
    exact ⟨r, .skipFixed h hlt rfl h₁ hr₁ h₂ h₃ hr₂ h₄ hnext⟩
  | lengthAware =>
    rcases Nat.lt_or_ge (c₂ + v + 2 + 1) 3125 with h₅ | h₅
    · obtain ⟨r, hnext⟩ := next hlt m₂ _
      exact ⟨r, .skipLength h hlt rfl h₁ hr₁ h₂ h₃ hr₂ h₄ h₅ hnext⟩
    · exact ⟨_, .lenOob h hlt rfl h₁ hr₁ h₂ h₃ hr₂ h₄ h₅⟩

theorem exists_scanRuns (t : Memory) (la : Strategy) (k : Nat) (m : Mask) (n c : Nat) (hk : n + k = 4) :
    ∃ r, ScanRuns t la m n c r := by
  induction k generalizing m n c with
  | zero => exact exists_scanRuns_of_next m c (by omega) fun h => by omega
  | succ k ih => exact exists_scanRuns_of_next m c (by omega) fun _ m' c' => ih m' (n + 1) c' (by omega)

end Sys2Proof.Machine
end

section
open Sys2Proof Sys2Proof.Machine

/-- Settles O39: the rules' scan ends in some result, and the loop ends in every result that it ends in. -/
theorem scanFollowsRules : Obligations.ScanFollowsRules := by
  intro t la r
  have hloop {r : Scan} (h : ScanRuns t la 0#3125 0 0 r) : locateScan t la = r := h.scanFrom_eq rfl
  refine ⟨?_, hloop⟩
  rintro rfl
  obtain ⟨r, h⟩ := exists_scanRuns t la 4 0#3125 0 0 rfl
  rwa [hloop h]
end

section
/-! SUPPORT. Marking a run that FindPat found keeps "only bytes of 0x06 runs are marked" (42_sector_locator.md R157). -/

namespace Sys2Proof.Machine

open Sys2Proof

/-- Every marked index lies in a stretch of marked bytes 0x06 that begins with 06 06 06. -/
def Memory.MarksOnlyRuns (t : Memory) (m : Mask) : Prop :=
  ∀ i, m.getLsbD i = true → i < 3125 ∧ t.read i = 0x06#8 ∧
    ∃ s, s ≤ i ∧ (∀ j, s ≤ j → j ≤ i → t.read j = 0x06#8 ∧ m.getLsbD j = true) ∧
      t.read s = 0x06#8 ∧ t.read (s + 1) = 0x06#8 ∧ t.read (s + 2) = 0x06#8

theorem Memory.marksOnlyRuns_zero (t : Memory) : t.MarksOnlyRuns 0#3125 :=
  fun i hi => absurd hi (by rw [BitVec.getLsbD_zero]; exact Bool.false_ne_true)

/-- A found run lies inside the side and begins with 06 06 06. -/
theorem findPat_runPat_some {t : Memory} {c w p : Nat} (h : findPat t c w [0x06#8, 0x06#8, 0x06#8] = some p) :
    c + p + 3 ≤ 3125 ∧ t.read (c + p) = 0x06#8 ∧ t.read (c + p + 1) = 0x06#8 ∧ t.read (c + p + 2) = 0x06#8 := by
  obtain ⟨-, hwin, hpat⟩ := findPat_some h
  have hbyte := (t.holdsAt_iff_getD _ _).mp hpat
  have hend : c + p + 3 ≤ min (c + w) 3125 := hwin
  exact ⟨by omega, hbyte 0 (by decide), hbyte 1 (by decide), hbyte 2 (by decide)⟩

theorem Memory.MarksOnlyRuns.markRun {t : Memory} {m m' : Mask} {c w p e : Nat} (hm : t.MarksOnlyRuns m)
    (h : findPat t c w [0x06#8, 0x06#8, 0x06#8] = some p) (hr : markRun t m (c + p) = (m', e)) :
    t.MarksOnlyRuns m' := by
  obtain ⟨hend, h0, h1, h2⟩ := findPat_runPat_some h
  have hs : c + p < 3125 := by omega
  obtain ⟨-, hle⟩ := markRun_end t m hs
  have hrun := (markRun_run t m hs).1
  have hmark := markRun_getLsbD t m hs
  rw [hr] at hle hrun hmark
  replace hmark (j : Nat) : m'.getLsbD j = true ↔ m.getLsbD j = true ∨ c + p ≤ j ∧ j < e := by
    simp [hmark j]
  have hbyte (j : Nat) (hj : c + p ≤ j) (hlt : j < e) : t.read j = 0x06#8 := by
    rcases hj.eq_or_lt with rfl | hj
    · exact h0
    · exact hrun j hj hlt
  intro i hi
  rcases (hmark i).mp hi with hi | ⟨hsi, hie⟩
  · obtain ⟨hlt, hread, s, hsi, hstretch, hhead⟩ := hm i hi
    exact ⟨hlt, hread, s, hsi, fun j hsj hji => (hstretch j hsj hji).imp_right fun hj => (hmark j).mpr (.inl hj),
      hhead⟩
  · refine ⟨hie.trans_le hle, hbyte i hsi hie, c + p, hsi, fun j hsj hji => ?_, h0, h1, h2⟩
    have hje := hji.trans_lt hie
    exact ⟨hbyte j hsj hje, (hmark j).mpr (.inr ⟨hsj, hje⟩)⟩

theorem ScanRuns.marksOnlyRuns {t : Memory} {la : Strategy} {m : Mask} {n c : Nat} {r : Scan}
    (hrun : ScanRuns t la m n c r) (hm : t.MarksOnlyRuns m) : t.MarksOnlyRuns r.mask := by
  induction hrun with
  | bound _ | noRun1 _ _ => exact hm
  | noMarkA _ h₁ hr₁ _ | noRun2 _ h₁ hr₁ _ _ => exact hm.markRun h₁ hr₁
  | noMarkB _ h₁ hr₁ _ h₃ hr₂ _ | done _ h₁ hr₁ _ h₃ hr₂ _ | lenOob _ _ _ h₁ hr₁ _ h₃ hr₂ _ _ =>
    exact (hm.markRun h₁ hr₁).markRun h₃ hr₂
  | skipFixed _ _ _ h₁ hr₁ _ h₃ hr₂ _ _ ih | skipLength _ _ _ h₁ hr₁ _ h₃ hr₂ _ _ _ ih =>
    exact ih ((hm.markRun h₁ hr₁).markRun h₃ hr₂)

end Sys2Proof.Machine
end

section
open Sys2Proof Sys2Proof.Machine

/-- Settles O41: every case of the rules' scan marks only runs that it found, from an empty mask. -/
theorem onlyRunBytesMarked : Obligations.OnlyRunBytesMarked :=
  fun t la => ((scanFollowsRules t la _).mp rfl).marksOnlyRuns t.marksOnlyRuns_zero
end

section
/-! SUPPORT. Loading a track-side into TBUF (42_sector_locator.md R153, 30_encoding.md R88). -/

namespace Sys2Proof.Machine

open Sys2Proof

/-- SSL_LOADs that fit into TBUF write their bytes from LPTR on and keep the bytes below it. -/
theorem hostRun_sslLoads (track : List Byte) (s : State) (hwf : s.ssl.tbuf.wf)
    (hfit : s.ssl.lptr.val + track.length ≤ 3125) :
    ∃ t rs, hostRun s (track.map Instr.sslLoad) = .ok (t, rs) ∧ t.ssl.tbuf.wf ∧
      t.ssl.lptr.val = s.ssl.lptr.val + track.length ∧
      (∀ a, a < s.ssl.lptr.val → t.ssl.tbuf.read a = s.ssl.tbuf.read a) ∧
      ∀ i, i < track.length → t.ssl.tbuf.read (s.ssl.lptr.val + i) = track.getD i 0#8 := by
  induction track generalizing s with
  | nil => exact ⟨s, [], rfl, hwf, rfl, fun _ _ => rfl, nofun⟩
  | cons v track ih =>
    rw [List.length_cons] at hfit
    have hl : s.ssl.lptr.val < 3125 := by omega
    have hload := Performs.hostIssue_eq (.sslLoad v hl) nofun
    have hread := Memory.read_write hwf.1 s.ssl.lptr.val v
    obtain ⟨t, rs, hrun, hwf', hlptr, hbelow, hbytes⟩ := ih
      ⟨{ s.toBlock with ssl := s.ssl.load hl v }, [], [.ack]⟩ (Memory.wf_write hwf hl v)
      (by simp only [Ssl.load]; omega)
    simp only [Ssl.load, hread] at hlptr hbelow hbytes
    refine ⟨t, _, hostRun_cons_ok hload hrun, hwf', ?_, fun a ha => ?_, fun i hi => ?_⟩
    · rw [hlptr, List.length_cons]
      omega
    · rw [hbelow a (by omega), if_neg (Nat.ne_of_lt ha)]
    · cases i with
      | zero => rw [Nat.add_zero, hbelow _ (Nat.lt_succ_self _), if_pos rfl, List.getD_cons_zero]
      | succ i =>
        rw [List.getD_cons_succ, ← hbytes i (by simpa using hi)]
        congr 1
        omega

/-- `ssl.fill` of a whole track-side leaves TBUF full and holding exactly its bytes. -/
theorem hostRun_sslFill {b : State} {track : List Byte} (hwf : b.ssl.tbuf.wf) (hlen : track.length = 3125) :
    ∃ t rs, hostRun b (sslFill track) = .ok (t, rs) ∧ t.ssl.tbuf.wf ∧ t.ssl.lptr.val = config.sideLen ∧
      ∀ i, i < 3125 → t.ssl.tbuf.read i = track.getD i 0#8 := by
  have hclear := Performs.hostIssue_eq (s := b) .sslClear nofun
  obtain ⟨t, rs, hrun, hwf', hlptr, -, hbytes⟩ := hostRun_sslLoads track
    ⟨{ b.toBlock with ssl := b.ssl.cleared }, [], [.ack]⟩ hwf (by simp [hlen])
  simp only [Ssl.cleared_lptr, Fin.val_zero, Nat.zero_add, hlen] at hlptr hbytes
  exact ⟨t, _, hostRun_cons_ok hclear hrun, hwf', hlptr, hbytes⟩

end Sys2Proof.Machine
end

section
open Sys2Proof Sys2Proof.Machine

/-- Settles O43: SSL_CLEAR's effect, and its one word is that of the one command with its OP. -/
theorem sslClearResult : Obligations.SslClearResult := by
  refine ⟨fun s => Performs.sslClear.exec_eq s.cmds s.resps, rfl, fun w hop hne => ?_⟩
  refine raisesIllegal_of_op hop fun i hi hw => ?_
  cases i with
  | sslClear => exact hne hw.symm
  | _ => simp [Instr.command] at hi

/-- Settles O44: SSL_LOAD's two cases by the laws of a write, and its words have 0x80 as their high byte. -/
theorem sslLoadResult : Obligations.SslLoadResult := by
  refine ⟨fun d s hwf hl => ?_, fun d s hl => ?_, fun d => ?_, fun w hop hhigh => ?_⟩
  · exact ⟨_, (Performs.sslLoad d hl).exec_eq s.cmds s.resps, rfl, Memory.wf_write hwf hl d,
      Memory.read_write hwf.1 s.ssl.lptr.val d, rfl⟩
  · exact (Fails.sslLoad hl.not_lt).exec_eq s.cmds s.resps
  · exact (decode_eq_ok_iff _ _).mpr (by simp [encode, Instr.command, Command.toWord])
  · refine raisesIllegal_of_op hop fun i hi hw => ?_
    cases i with
    | sslLoad d => exact hhigh (hw ▸ toNat_encode_div (.sslLoad d))
    | _ => simp [Instr.command] at hi

/-- Settles O46: filling leaves exactly the given bytes in TBUF, and SSL_LOCATE scans them. -/
theorem locateContract : Obligations.LocateContract := by
  intro b track la hwf hlen
  obtain ⟨t, rs, hfill, hwf', hlptr, hbytes⟩ := hostRun_sslFill hwf hlen
  have hlocate := Performs.hostIssue_eq (.sslLocate la hlptr) nofun
  exact ⟨_, _, t.ssl.tbuf, _, hostRun_append_ok hfill (hostRun_cons_ok hlocate (hostRun_nil _)), hwf', hbytes,
    Scan.scount_val (locateScan_count_le _ la), List.getLast?_concat⟩
end

section
/-! SUPPORT. FindPat and MarkRun on a stretch of known bytes, and the scan of the three tracks of 42_sector_locator.md
R156. -/

namespace Sys2Proof.Machine

open Sys2Proof

section
variable {t : Memory} {c w : Nat} {pat : List Byte}

theorem Memory.OccursInWindow.read_first {p : Nat} (h : t.OccursInWindow c w pat p) (hpat : 0 < pat.length) :
    t.read (c + p) = pat.getD 0 0#8 :=
  ((Memory.occursInWindow_iff p).mp h).2 0 hpat

/-- An occurrence is the first one when the pattern's first byte does not stand before it. -/
theorem findPat_eq_some_of_first_byte {p : Nat} (hpat : 0 < pat.length) (h : t.OccursInWindow c w pat p)
    (hfirst : ∀ q, q < p → t.read (c + q) ≠ pat.getD 0 0#8) : findPat t c w pat = some p :=
  (findPat_eq_some_iff hpat p).mpr ⟨h, fun q hq hocc => hfirst q hq (hocc.read_first hpat)⟩

/-- FindPat on known bytes `l` from index `c`: an offset is answered when `l` holds the pattern there, and not the
pattern's first byte before it. -/
theorem findPat_of_holdsAt {l : List Byte} (h : t.holdsAt c l = true) (hc : c + l.length ≤ 3125) {a p : Nat}
    (hlen : 0 < pat.length ∧ p + pat.length ≤ w ∧ a + p + pat.length ≤ l.length)
    (hocc : ∀ k, k < pat.length → l.getD (a + p + k) 0#8 = pat.getD k 0#8)
    (hfirst : ∀ q, q < p → l.getD (a + q) 0#8 ≠ pat.getD 0 0#8) : findPat t (c + a) w pat = some p := by
  obtain ⟨hpat, hw, hl⟩ := hlen
  have hread := (t.holdsAt_iff_getD c l).mp h
  refine findPat_eq_some_of_first_byte hpat
    ((Memory.occursInWindow_iff p).mpr ⟨by omega, fun k hk => ?_⟩) fun q hq => ?_
  · rw [← hocc k hk, ← hread _ (by omega), Nat.add_assoc c, Nat.add_assoc c]
  · rw [Nat.add_assoc, hread _ (by omega)]
    exact hfirst q hq

/-- The index that MarkRun returns, from the bytes of the run and the byte after it. -/
theorem markRun_end_eq (m : Mask) {s e : Nat} (hse : s < e) (he : e ≤ 3125)
    (hbytes : ∀ i, s < i → i < e → t.read i = 0x06#8) (hstop : e < 3125 → t.read e ≠ 0x06#8) :
    (markRun t m s).2 = e := by
  have hs : s < 3125 := hse.trans_le he
  obtain ⟨hlt, hle⟩ := markRun_end t m hs
  obtain ⟨hrun, hend⟩ := markRun_run t m hs
  rcases Nat.lt_trichotomy (markRun t m s).2 e with hless | heq | hmore
  · exact absurd (hbytes _ hlt hless) (hend (hless.trans_le he))
  · exact heq
  · exact absurd (hrun e hse hmore) (hstop (hmore.trans_le hle))

/-- MarkRun on known bytes `l` from index `c`. -/
theorem markRun_of_holdsAt {l : List Byte} (h : t.holdsAt c l = true) (hc : c + l.length ≤ 3125) (m : Mask) {s e : Nat}
    (hlen : s < e ∧ e < l.length) (hbytes : ∀ i, i < e → s < i → l.getD i 0#8 = 0x06#8)
    (hstop : l.getD e 0#8 ≠ 0x06#8) :
    ∃ m', markRun t m (c + s) = (m', c + e) ∧
      ∀ i, m'.getLsbD i = (m.getLsbD i || (decide (c + s ≤ i) && decide (i < c + e))) := by
  obtain ⟨hse, he⟩ := hlen
  have hread := (t.holdsAt_iff_getD c l).mp h
  have hend : (markRun t m (c + s)).2 = c + e := by
    refine markRun_end_eq m (by omega) (by omega) (fun i hsi hie => ?_) fun _ => ?_
    · obtain ⟨i, rfl⟩ := Nat.exists_eq_add_of_le (show c ≤ i by omega)
      rw [hread i (by omega)]
      exact hbytes i (by omega) (by omega)
    · rw [hread e he]
      exact hstop
  exact ⟨_, Prod.ext rfl hend, fun i => by rw [markRun_getLsbD t m (by omega), hend]⟩

end

/-- A track-side of zeros has no run. -/
theorem locateScan_of_zeros {t : Memory} (h : ∀ i, i < 3125 → t.read i = 0x00#8) (la : Strategy) :
    locateScan t la = { mask := 0#3125, count := 0, cursor := 0, stop := .noRun1 } := by
  refine ScanRuns.scanFrom_eq (k := 4) (.noRun1 (by decide) ?_) rfl
  refine (findPat_eq_none_iff (by decide)).mpr fun p hp => ?_
  have hend : 0 + p + 3 ≤ min (0 + 100) 3125 := hp.1
  have hfirst : t.read (0 + p) = 0x06#8 := hp.read_first (by decide)
  rw [h _ (by omega)] at hfirst
  exact absurd hfirst (by decide)

/-- A track-side of bytes 0x06 is one run, which leaves no byte for MARK_A. -/
theorem locateScan_of_runBytes {t : Memory} (h : ∀ i, i < 3125 → t.read i = 0x06#8) (la : Strategy) :
    locateScan t la = { mask := BitVec.allOnes 3125, count := 0, cursor := 3125, stop := .noMarkA } := by
  have hfound : findPat t 0 100 [0x06#8, 0x06#8, 0x06#8] = some 0 := by
    refine findPat_eq_some_of_first_byte (by decide) ?_ nofun
    refine (Memory.occursInWindow_iff 0).mpr ⟨by decide, fun i (hi : i < 3) => ?_⟩
    rw [h _ (by omega)]
    interval_cases i <;> rfl
  have hend : (markRun t 0#3125 0).2 = 3125 :=
    markRun_end_eq _ (by decide) (Nat.le_refl _) (fun i _ hi => h i hi) fun hlt => absurd hlt (Nat.lt_irrefl _)
  have hmask : (markRun t 0#3125 0).1 = BitVec.allOnes 3125 := by
    refine BitVec.eq_of_getLsbD_eq fun i hi => ?_
    rw [markRun_getLsbD t _ (by decide), hend]
    simp only [BitVec.getLsbD_zero, BitVec.getLsbD_allOnes, Nat.zero_le, decide_true, Bool.true_and, Bool.false_or]
  exact ScanRuns.scanFrom_eq (k := 4)
    (.noMarkA (by decide) hfound (Prod.ext hmask hend) (findPat_eq_none_of_ge (by decide) (Nat.le_refl _))) rfl

/-- The first 36 bytes of each sector of V1: up to MARK_B and two bytes of the payload, which the scan skips. -/
def trackV1Head : List Byte :=
  List.replicate 10 0x00#8 ++ List.replicate 6 0x06#8 ++
    [0xEA#8, 0xD3#8, 0x01#8, 0x00#8, 0x02#8, 0x00#8, 0x00#8, 0x00#8, 0x00#8, 0x00#8] ++
    List.replicate 6 0x06#8 ++ [0xDD#8, 0xF3#8, 0xF4#8, 0x01#8]

/-- A sector of V1: its head and the rest of its payload. -/
def trackV1Sector : List Byte := trackV1Head ++ List.replicate 528 0xE5#8

theorem trackV1Sector_length : trackV1Sector.length = 564 := by
  rw [trackV1Sector, List.length_append, List.length_replicate]
  rfl

theorem trackV1_eq : trackV1 = (List.replicate 5 trackV1Sector).flatten ++ List.replicate 305 0x00#8 := rfl

/-- Copy `j` of a list repeated end to end. -/
theorem getD_flatten_replicate {α : Type} (l : List α) (d : α) {n j i : Nat} (hj : j < n) (hi : i < l.length) :
    (List.replicate n l).flatten.getD (l.length * j + i) d = l.getD i d := by
  induction n generalizing j with
  | zero => exact absurd hj (Nat.not_lt_zero j)
  | succ n ih =>
    rw [List.replicate_succ, List.flatten_cons]
    cases j with
    | zero => rw [Nat.mul_zero, Nat.zero_add, List.getD_append _ _ _ _ hi]
    | succ j =>
      rw [Nat.mul_succ, Nat.add_right_comm, List.getD_append_right _ _ _ _ (Nat.le_add_left ..), Nat.add_sub_cancel]
      exact ih (Nat.lt_of_succ_lt_succ hj)

theorem trackV1_getD {n i : Nat} (hn : n < 5) (hi : i < 36) :
    trackV1.getD (564 * n + i) 0#8 = trackV1Head.getD i 0#8 := by
  have hsector : i < trackV1Sector.length := by rw [trackV1Sector_length]; omega
  have hlen : (List.replicate 5 trackV1Sector).flatten.length = 2820 := by simp [trackV1Sector_length]
  rw [trackV1_eq, List.getD_append _ _ _ _ (by omega), ← trackV1Sector_length, getD_flatten_replicate _ _ hn hsector,
    trackV1Sector, List.getD_append _ _ _ _ hi]

theorem trackV1_holdsAt {t : Memory} (h : ∀ i, i < 3125 → t.read i = trackV1.getD i 0#8) {n : Nat} (hn : n < 5) :
    t.holdsAt (564 * n) trackV1Head = true := by
  refine (t.holdsAt_iff_getD _ _).mpr fun i (hi : i < 36) => ?_
  rw [h _ (by omega), trackV1_getD hn hi]

/-- The marks of the first `n` sectors of V1. -/
def trackV1Marks (n i : Nat) : Bool :=
  decide (i < 564 * n ∧ ((10 ≤ i % 564 ∧ i % 564 ≤ 15) ∨ (26 ≤ i % 564 ∧ i % 564 ≤ 31)))

theorem trackV1Marks_succ (n i : Nat) :
    trackV1Marks (n + 1) i = (trackV1Marks n i ||
      (decide (564 * n + 10 ≤ i) && decide (i < 564 * n + 16)) ||
      (decide (564 * n + 26 ≤ i) && decide (i < 564 * n + 32))) := by
  simp only [trackV1Marks, ← Bool.decide_and, ← Bool.decide_or]
  exact decide_eq_decide.mpr (by omega)

/-- Where the head of a sector of V1 stands, a sector is found with its two runs marked. -/
theorem sectorStep1_trackV1Head {t : Memory} {c : Nat} (h : t.holdsAt c trackV1Head = true)
    (hc : c + trackV1Head.length ≤ 3125) (m : Mask) :
    ∃ m', sectorStep1 t m c = { mask := m', cursor := c + 34, stopped := none } ∧
      ∀ i, m'.getLsbD i = (m.getLsbD i || (decide (c + 10 ≤ i) && decide (i < c + 16)) ||
        (decide (c + 26 ≤ i) && decide (i < c + 32))) := by
  have h₁ : findPat t c 100 [0x06#8, 0x06#8, 0x06#8] = some 10 :=
    findPat_of_holdsAt (a := 0) h hc (by decide) (by decide) (by decide)
  obtain ⟨m₁, hr₁, hm₁⟩ := markRun_of_holdsAt h hc m (s := 10) (e := 16) (by decide) (by decide) (by decide)
  have h₂ : findPat t (c + 16) 10 [0xEA#8, 0xD3#8] = some 0 :=
    findPat_of_holdsAt h hc (by decide) (by decide) (by decide)
  have h₃ : findPat t (c + 23) 20 [0x06#8, 0x06#8, 0x06#8] = some 3 :=
    findPat_of_holdsAt h hc (by decide) (by decide) (by decide)
  obtain ⟨m₂, hr₂, hm₂⟩ := markRun_of_holdsAt h hc m₁ (s := 26) (e := 32) (by decide) (by decide) (by decide)
  have h₄ : findPat t (c + 32) 20 [0xDD#8, 0xF3#8] = some 0 :=
    findPat_of_holdsAt h hc (by decide) (by decide) (by decide)
  have hs := (sectorStep1_of_markA h₁ hr₁ h₂).trans (sectorStep3_of_markB h₃ hr₂ h₄)
  exact ⟨m₂, hs, fun i => by rw [hm₂, hm₁]⟩

/-- The scan of V1 from its sector `n`, the fixed skip leading from one sector to the next. -/
theorem scanFrom_trackV1 {t : Memory} (ht : ∀ n, n < 5 → t.holdsAt (564 * n) trackV1Head = true) {k n : Nat}
    {m : Mask} (hk : n + k = 4) (hm : ∀ i, m.getLsbD i = trackV1Marks n i) :
    (scanFrom t .fixed (k + 1) m n (564 * n)).count = 5 ∧
      (scanFrom t .fixed (k + 1) m n (564 * n)).stop = .done ∧
      ∀ i, (scanFrom t .fixed (k + 1) m n (564 * n)).mask.getLsbD i = trackV1Marks 5 i := by
  have hsector {n : Nat} (hn : n < 5) (m : Mask) (hm : ∀ i, m.getLsbD i = trackV1Marks n i) :
      ∃ m', sectorStep1 t m (564 * n) = { mask := m', cursor := 564 * n + 34, stopped := none } ∧
        ∀ i, m'.getLsbD i = trackV1Marks (n + 1) i := by
    have hlen : trackV1Head.length = 36 := rfl
    obtain ⟨m', hs, hmarks⟩ := sectorStep1_trackV1Head (ht n hn) (by omega) m
    exact ⟨m', hs, fun i => by rw [hmarks, hm, trackV1Marks_succ]⟩
  induction k generalizing n m with
  | zero =>
    obtain rfl : n = 4 := hk
    obtain ⟨m', hs, hm'⟩ := hsector (by decide) m hm
    rw [scanFrom_of_last (by decide) hs]
    exact ⟨rfl, rfl, hm'⟩
  | succ k ih =>
    obtain ⟨m', hs, hm'⟩ := hsector (by omega) m hm
    rw [scanFrom_of_skip (by omega) hs (payloadSkip_fixed t _)]
    exact ih (n := n + 1) (by omega) hm'

end Sys2Proof.Machine
end

section
open Sys2Proof Sys2Proof.Machine

/-- Settles O45: SSL_LOCATE's two cases, the scans of the rule's three tracks, and its two words, one for each
strategy. -/
theorem sslLocateResult : Obligations.SslLocateResult := by
  refine ⟨fun la s hl => ?_, fun la s hl => (Fails.sslLocate hl).exec_eq s.cmds s.resps,
    fun t la h => locateScan_of_zeros h la, fun t la h => locateScan_of_runBytes h la, fun t h => ?_, rfl, rfl,
    fun w hop hfixed hlen => raisesIllegal_of_op hop fun i hi hw => ?_⟩
  · exact ⟨_, _, (Performs.sslLocate la hl).exec_eq s.cmds s.resps,
      Scan.scount_val (locateScan_count_le s.ssl.tbuf la), rfl⟩
  · obtain ⟨hcount, hstop, hmarks⟩ := scanFrom_trackV1 (fun n => trackV1_holdsAt h) (k := 4) (n := 0) rfl
      (m := 0#3125) fun i => by simp [trackV1Marks]
    refine ⟨hcount, hstop, fun i => (hmarks i).trans (decide_eq_decide.mpr ?_)⟩
    omega
  · cases i with
    | sslLocate la =>
      cases la with
      | fixed => exact hfixed hw.symm
      | lengthAware => exact hlen hw.symm
    | _ => simp [Instr.command] at hi
end

section
/-! SUPPORT. Reading an HFE source (43_host_interface.md R200, R201, R208): what a read answers, and the one way in which
it can fail. -/

namespace Sys2Proof.Machine

open Sys2Proof

variable {oob : OobRead} {src : List Byte}

theorem getElem?_eq_some_getD {a : Nat} (h : a < src.length) : src[a]? = some (src.getD a 0#8) := by
  rw [List.getElem?_eq_getElem h, List.getD_eq_getElem _ _ h]

theorem srcByte_of_lt {a : Nat} (h : a < src.length) : srcByte oob src a = .ok (src.getD a 0#8) := by
  simp only [srcByte, getElem?_eq_some_getD h]

theorem srcU16_of_lt {a : Nat} (h : a + 1 < src.length) :
    srcU16 oob src a = .ok (le16 (src.getD a 0#8) (src.getD (a + 1) 0#8)) :=
  srcU16_ok (srcByte_of_lt (Nat.lt_of_succ_lt h)) (srcByte_of_lt h)

/-- A 16-bit read answers, and under FAULT only from inside the source; or it runs past the source's end under FAULT. -/
theorem srcU16_cases (oob : OobRead) (src : List Byte) (a : Nat) :
    (∃ v, srcU16 oob src a = .ok v ∧ (oob = .fault → a + 1 < src.length)) ∨
      (oob = .fault ∧ src.length ≤ a + 1 ∧ srcU16 oob src a = .error .sourceTruncated) := by
  rcases srcByte_cases oob src a with ⟨_, ha⟩ | ⟨hle, ⟨hf, ha⟩ | ⟨b, rfl, ha⟩⟩
  · rcases srcByte_cases oob src (a + 1) with ⟨hlt, ha'⟩ | ⟨hle, ⟨hf, ha'⟩ | ⟨b, rfl, ha'⟩⟩
    · exact .inl ⟨_, srcU16_ok ha ha', fun _ => hlt⟩
    · exact .inr ⟨hf, hle, by simp only [srcU16, ha, ha']⟩
    · exact .inl ⟨_, srcU16_ok ha ha', nofun⟩
  · exact .inr ⟨hf, by omega, by simp only [srcU16, ha]⟩
  · have ha' : srcByte (.fill b) src (a + 1) = .ok b := by
      simp only [srcByte, List.getElem?_eq_none (Nat.le_succ_of_le hle)]
    exact .inl ⟨_, srcU16_ok ha ha', nofun⟩

theorem srcU16_error {a : Nat} {e : HostError} (h : srcU16 oob src a = .error e) : e = .sourceTruncated := by
  rcases srcU16_cases oob src a with ⟨v, hv, -⟩ | ⟨-, -, he⟩
  · rw [hv] at h
    cases h
  · rw [he] at h
    cases h
    rfl

/-- A sequence of reads answers, or one of them lies past the source's end under FAULT. -/
theorem srcBytes_cases (oob : OobRead) (src : List Byte) (as : List Nat) :
    (∃ bs, srcBytes oob src as = .ok bs) ∨
      (oob = .fault ∧ (∃ a ∈ as, src.length ≤ a) ∧ srcBytes oob src as = .error .sourceTruncated) := by
  induction as with
  | nil => exact .inl ⟨[], rfl⟩
  | cons a as ih =>
    have hread : (∃ v, srcByte oob src a = .ok v) ∨
        (oob = .fault ∧ src.length ≤ a ∧ srcByte oob src a = .error .sourceTruncated) := by
      rcases srcByte_cases oob src a with ⟨_, ha⟩ | ⟨hle, ⟨hf, ha⟩ | ⟨b, -, ha⟩⟩
      · exact .inl ⟨_, ha⟩
      · exact .inr ⟨hf, hle, ha⟩
      · exact .inl ⟨_, ha⟩
    rcases hread with ⟨v, ha⟩ | ⟨hf, hle, ha⟩
    · rcases ih with ⟨bs, hbs⟩ | ⟨hf, ⟨x, hx, hle⟩, hbs⟩
      · exact .inl ⟨v :: bs, by simp only [srcBytes, ha, hbs]⟩
      · exact .inr ⟨hf, ⟨x, List.mem_cons_of_mem _ hx, hle⟩, by simp only [srcBytes, ha, hbs]⟩
    · exact .inr ⟨hf, ⟨a, List.mem_cons_self .., hle⟩, by simp only [srcBytes, ha]⟩

theorem srcBytes_of_lt {as : List Nat} (h : ∀ a ∈ as, a < src.length) :
    srcBytes oob src as = .ok (as.map (fun a => src.getD a 0#8)) := by
  induction as with
  | nil => rfl
  | cons a as ih =>
    have ha := srcByte_of_lt (oob := oob) (h a (List.mem_cons_self ..))
    have has := ih fun x hx => h x (List.mem_cons_of_mem _ hx)
    simp only [srcBytes, ha, has, List.map_cons]

end Sys2Proof.Machine
end

section
/-! SUPPORT. The checks of an HFE source, one lemma per outcome (43_host_interface.md R204, 60_exceptions.md
R250 … R255), and what a whole run makes of an outcome (R211, R212). -/

namespace Sys2Proof.Machine

open Sys2Proof

variable {oob : OobRead} {src : List Byte} {lo : Nat} {rate : Rate}

/-- Tracks that pass are skipped. -/
theorem checkTrackLens_append {ts us : List Nat} (h : checkTrackLens oob src lo rate ts = .ok ()) :
    checkTrackLens oob src lo rate (ts ++ us) = checkTrackLens oob src lo rate us := by
  induction ts with
  | nil => rfl
  | cons t ts ih =>
    simp only [checkTrackLens, List.cons_append] at h ⊢
    split at h
    · cases h
    · next len hl =>
      split at h
      · cases h
      · next hn => simp only [if_neg hn, ih h]

/-- The first track that is too short, after tracks that are long enough, is malformed. -/
theorem checkTrackLens_of_short {n t len : Nat} (ht : t < n)
    (hbelow : ∀ t', t' < t → ∃ len, trackLen oob src lo t' = .ok len ∧ trackMinLen rate ≤ len)
    (hlen : trackLen oob src lo t = .ok len) (hshort : len < trackMinLen rate) :
    checkTrackLens oob src lo rate (List.range n) = .error .malformedTrack := by
  obtain ⟨k, rfl⟩ : ∃ k, n = t + (k + 1) := ⟨n - t - 1, by omega⟩
  rw [List.range_add, checkTrackLens_append (checkTrackLens_ok fun t' ht' => hbelow t' (List.mem_range.mp ht')),
    List.range_succ_eq_map, List.map_cons]
  simp only [checkTrackLens, Nat.add_zero, hlen, if_pos hshort]

theorem exists_trackLen_of_checkTrackLens_ok {ts : List Nat} (h : checkTrackLens oob src lo rate ts = .ok ()) :
    ∀ t ∈ ts, ∃ len, trackLen oob src lo t = .ok len := by
  induction ts with
  | nil => nofun
  | cons t ts ih =>
    simp only [checkTrackLens] at h
    split at h
    · cases h
    · next len hl =>
      split at h
      · cases h
      · exact List.forall_mem_cons.mpr ⟨⟨len, hl⟩, ih h⟩

theorem checkTrackLens_error {ts : List Nat} {e : HostError} (h : checkTrackLens oob src lo rate ts = .error e) :
    e = .sourceTruncated ∨ e = .malformedTrack := by
  induction ts with
  | nil => cases h
  | cons t ts ih =>
    simp only [checkTrackLens] at h
    split at h
    · next hl =>
      cases h
      exact .inl (srcU16_error hl)
    · split at h
      · cases h
        exact .inr rfl
      · exact ih h

theorem rateOfBitrate_error {kbps : Nat} {e : HostError} (h : rateOfBitrate kbps = .error e) :
    e = .unsupportedBitrate := by
  unfold rateOfBitrate at h
  split at h
  · cases h
  · split at h <;> cases h
    rfl

theorem ne_blockFault_of_checkRateAndTracks_error {e : HostError} (h : checkRateAndTracks oob src = .error e) :
    e ≠ .blockFault := by
  unfold checkRateAndTracks at h
  split at h
  · next hs =>
    cases h
    rw [srcU16_error hs]
    nofun
  · split at h
    · next hr =>
      cases h
      rw [rateOfBitrate_error hr]
      nofun
    · split at h
      · next hs =>
        cases h
        rw [srcU16_error hs]
        nofun
      · split at h
        · next hc =>
          cases h
          rcases checkTrackLens_error hc with rfl | rfl <;> nofun
        · cases h

/-- The reasons for which validation fails do not include the block: no command has been issued (R204). -/
theorem ne_blockFault_of_validateHfe_error {e : HostError} (h : validateHfe oob src = .error e) : e ≠ .blockFault := by
  unfold validateHfe at h
  split at h
  · cases h
    nofun
  · split at h
    · cases h
      nofun
    · split at h
      · cases h
        nofun
      · exact ne_blockFault_of_checkRateAndTracks_error h

/-- A source that passes has passed check 5 for every track. -/
theorem checkTrackLens_of_validateHfe_ok (h : validateHfe oob src = .ok (rate, lo)) :
    checkTrackLens oob src lo rate (List.range 80) = .ok () := by
  unfold validateHfe checkRateAndTracks at h
  repeat' split at h
  all_goals cases h
  assumption

theorem validateHfe_of_not_signature (h : ¬ (512 ≤ src.length ∧ src.take 8 = hfeSignature)) :
    validateHfe oob src = .error .invalidSignature :=
  if_pos ((not_and_or.mp h).imp_left Nat.lt_of_not_le)

/-- The signature check passes on at least 512 bytes, so that the header's bytes are there to be read. -/
theorem signature_check_passes (hlen : 512 ≤ src.length) (hsig : src.take 8 = hfeSignature) :
    ¬ (src.length < config.hfeBlock ∨ src.take hfeSignature.length ≠ hfeSignature) :=
  fun h => h.elim hlen.not_gt fun hne => hne hsig

theorem validateHfe_of_not_revision (hlen : 512 ≤ src.length) (hsig : src.take 8 = hfeSignature)
    (hrev : src.getD 8 0#8 ≠ 0#8) : validateHfe oob src = .error .unsupportedRevision := by
  rw [validateHfe, if_neg (signature_check_passes hlen hsig), getElem?_eq_some_getD (by omega),
    if_pos fun h => hrev (Option.some.inj h)]

theorem validateHfe_of_not_geometry (hlen : 512 ≤ src.length) (hsig : src.take 8 = hfeSignature)
    (hrev : src.getD 8 0#8 = 0#8) (hgeo : ¬ (src.getD 9 0#8 = 80#8 ∧ src.getD 10 0#8 = 2#8)) :
    validateHfe oob src = .error .unsupportedGeometry := by
  rw [validateHfe, if_neg (signature_check_passes hlen hsig), getElem?_eq_some_getD (by omega),
    if_neg (not_not.mpr (congrArg some hrev)), getElem?_eq_some_getD (by omega), getElem?_eq_some_getD (by omega),
    if_pos ((not_and_or.mp hgeo).imp (fun h he => h (Option.some.inj he)) fun h he => h (Option.some.inj he))]

/-- The header's fields that the first three checks look at. -/
structure HeaderPasses (src : List Byte) : Prop where
  length : 512 ≤ src.length
  signature : src.take 8 = hfeSignature
  revision : src.getD 8 0#8 = 0#8
  tracks : src.getD 9 0#8 = 80#8
  sides : src.getD 10 0#8 = 2#8

theorem HeaderPasses.validateHfe_eq (h : HeaderPasses src) : validateHfe oob src = checkRateAndTracks oob src := by
  obtain ⟨hlen, hsig, hrev, htracks, hsides⟩ := h
  rw [validateHfe, if_neg (signature_check_passes hlen hsig), getElem?_eq_some_getD (by omega),
    if_neg (not_not.mpr (congrArg some hrev)), getElem?_eq_some_getD (by omega), getElem?_eq_some_getD (by omega),
    if_neg (not_or.mpr ⟨not_not.mpr (congrArg some htracks), not_not.mpr (congrArg some hsides)⟩)]

theorem HeaderPasses.of_bad_bitrate (h : HeaderPasses src) {kbps : Nat} (hk : srcU16 oob src 12 = .ok kbps)
    (h125 : kbps ≠ 125) (h250 : kbps ≠ 250) : validateHfe oob src = .error .unsupportedBitrate := by
  have hr : rateOfBitrate kbps = .error .unsupportedBitrate := by rw [rateOfBitrate, if_neg h125, if_neg h250]
  simp only [h.validateHfe_eq, checkRateAndTracks, hk, hr]

/-- With the rate and the lookup table's block known, check 5 is what is left. -/
theorem HeaderPasses.of_rate (h : HeaderPasses src) {kbps : Nat} (hk : srcU16 oob src 12 = .ok kbps)
    (hr : rateOfBitrate kbps = .ok rate) (hlo : srcU16 oob src 18 = .ok lo) :
    (checkTrackLens oob src lo rate (List.range 80) = .ok () → validateHfe oob src = .ok (rate, lo)) ∧
      ∀ e, checkTrackLens oob src lo rate (List.range 80) = .error e → validateHfe oob src = .error e := by
  constructor
  · intro hc
    simp only [h.validateHfe_eq, checkRateAndTracks, hk, hr, lutBlock, hlo, hc]
  · intro e hc
    simp only [h.validateHfe_eq, checkRateAndTracks, hk, hr, lutBlock, hlo, hc]

/-- The result of a run from HFE to RDI: an error is a hard failure with nothing written (R212). -/
theorem convert_of_hfeToRdi {p : HostParams} (hd : p.direction = .hfeToRdi) (src : List Byte) (b : State) :
    (∀ e, hfeToRdi p.oobRead src b = .error e → convert p src b = { result := .hard e, dest := [] }) ∧
      ∀ out, hfeToRdi p.oobRead src b = .ok out → convert p src b = { result := .clean, dest := out } :=
  ⟨fun e h => by simp only [convert, hd, h], fun out h => by simp only [convert, hd, h]⟩

/-- The result of a run from RDI to HFE. -/
theorem convert_of_rdiToHfe {p : HostParams} (hd : p.direction = .rdiToHfe) (src : List Byte) (b : State) :
    (∀ e, rdiToHfe p src b = .error e → convert p src b = { result := .hard e, dest := [] }) ∧
      ∀ r, rdiToHfe p src b = .ok r → convert p src b = { result := resultOf r.warnings, dest := r.bytes } :=
  ⟨fun e h => by simp only [convert, hd, h], fun r h => by simp only [convert, hd, h]⟩

theorem resultOf_ne_hard (warnings : List (Nat × Nat)) (e : HostError) : resultOf warnings ≠ .hard e := by
  unfold resultOf
  split <;> nofun

end Sys2Proof.Machine
end

section
open Sys2Proof Sys2Proof.Machine

/-- Settles O55: each check in turn, on a header whose earlier fields have passed; check 5 fails at the first track
that is too short. -/
theorem validationOrder : Obligations.ValidationOrder := by
  intro oob src sigOk revOk geoOk kbps lo lenOk
  have hpass (hsig : sigOk) (hrev : revOk) (hgeo : geoOk) : HeaderPasses src :=
    ⟨hsig.1, hsig.2, hrev, hgeo.1, hgeo.2⟩
  have hkbps (hsig : sigOk) : srcU16 oob src 12 = .ok kbps := srcU16_of_lt (Nat.lt_of_lt_of_le (by decide) hsig.1)
  have hlo (hsig : sigOk) : srcU16 oob src 18 = .ok lo := srcU16_of_lt (Nat.lt_of_lt_of_le (by decide) hsig.1)
  refine ⟨validateHfe_of_not_signature, fun hsig => validateHfe_of_not_revision hsig.1 hsig.2,
    fun hsig => validateHfe_of_not_geometry hsig.1 hsig.2,
    fun hsig hrev hgeo => (hpass hsig hrev hgeo).of_bad_bitrate (hkbps hsig), ?_, ?_⟩
  · intro bitLen rate hrate hsig hrev hgeo
    have hr : rateOfBitrate kbps = .ok rate := by rcases hrate with ⟨-, hk, rfl⟩ | ⟨-, hk, rfl⟩ <;> rw [hk] <;> rfl
    have hmin : trackMinLen rate = 6250 * bitLen := by rcases hrate with ⟨rfl, -, rfl⟩ | ⟨rfl, -, rfl⟩ <;> rfl
    obtain ⟨hok, herr⟩ := (hpass hsig hrev hgeo).of_rate (hkbps hsig) hr (hlo hsig)
    refine ⟨fun t len ht hbelow hl hshort => herr _ ?_, fun h => hok (checkTrackLens_ok fun t ht => ?_)⟩
    · exact checkTrackLens_of_short ht (hmin ▸ hbelow) hl (hmin ▸ hshort)
    · exact hmin ▸ h t (List.mem_range.mp ht)
  · rintro p b e hd rfl he
    exact (convert_of_hfeToRdi hd src b).1 e (by simp only [hfeToRdi, he])
end

section
open Sys2Proof Sys2Proof.Machine

/-- Settles O53: BITLEN is 2 or 4 as the formula says, and the table's rows are twelve values of it. -/
theorem rawOffsetFormula : Obligations.RawOffsetFormula := by
  refine ⟨fun rate off side pos => ?_, by decide⟩
  cases rate <;> rfl

/-- Settles O57: in both directions an error leaves an empty destination, and a run that no error stopped is no hard
failure. -/
theorem hardFailureWritesNothing : Obligations.HardFailureWritesNothing := by
  intro p src b e h
  cases hd : p.direction with
  | hfeToRdi =>
    obtain ⟨herr, hok⟩ := convert_of_hfeToRdi hd src b
    cases hr : hfeToRdi p.oobRead src b with
    | error e' => rw [herr e' hr]
    | ok out =>
      rw [hok out hr] at h
      cases h
  | rdiToHfe =>
    obtain ⟨herr, hok⟩ := convert_of_rdiToHfe hd src b
    cases hr : rdiToHfe p src b with
    | error e' => rw [herr e' hr]
    | ok r =>
      rw [hok r hr] at h
      exact absurd h (resultOf_ne_hard _ e)
end

section
/-! SUPPORT. ChooseMask on a whole track-side (43_host_interface.md R197). -/

namespace Sys2Proof.Machine

open Sys2Proof

/-- SSL_LOADs that fit are answered, whatever TBUF held, and change only SSL. -/
theorem hostRun_sslLoads_fit (track : List Byte) (s : State) (hfit : s.ssl.lptr.val + track.length ≤ 3125) :
    ∃ t rs, hostRun s (track.map Instr.sslLoad) = .ok (t, rs) ∧
      t.ssl.lptr.val = s.ssl.lptr.val + track.length ∧ t.mod = s.mod := by
  induction track generalizing s with
  | nil => exact ⟨s, [], rfl, rfl, rfl⟩
  | cons v track ih =>
    rw [List.length_cons] at hfit
    have hl : s.ssl.lptr.val < 3125 := by omega
    have hload := Performs.hostIssue_eq (.sslLoad v hl) nofun
    obtain ⟨t, rs, hrun, hlptr, hmod⟩ := ih ⟨{ s.toBlock with ssl := s.ssl.load hl v }, [], [.ack]⟩
      (by simp only [Ssl.load]; omega)
    refine ⟨t, _, hostRun_cons_ok hload hrun, hlptr.trans ?_, hmod⟩
    simp only [Ssl.load, List.length_cons]
    omega

/-- `ssl.fill` of a whole track-side completes, whatever TBUF held. -/
theorem hostRun_sslFill_fit (b : State) {track : List Byte} (hlen : track.length = 3125) :
    ∃ t rs, hostRun b (sslFill track) = .ok (t, rs) ∧ t.ssl.lptr.val = config.sideLen ∧ t.mod = b.mod := by
  have hclear := Performs.hostIssue_eq (s := b) .sslClear nofun
  obtain ⟨t, rs, hrun, hlptr, hmod⟩ := hostRun_sslLoads_fit track
    ⟨{ b.toBlock with ssl := b.ssl.cleared }, [], [.ack]⟩ (by simp [hlen])
  simp only [Ssl.cleared_lptr, Fin.val_zero, Nat.zero_add, hlen] at hlptr
  exact ⟨t, _, hostRun_cons_ok hclear hrun, hlptr, hmod⟩

/-- Locating on a fully loaded TBUF answers the scan of TBUF, and changes neither what is loaded nor MOD. -/
theorem runLocate_eq_ok {s : State} (h : s.ssl.lptr.val = config.sideLen) (la : Strategy) :
    ∃ t, runLocate s la = .ok (t, (locateScan s.ssl.tbuf la).scount, (locateScan s.ssl.tbuf la).mask) ∧
      t.ssl.tbuf = s.ssl.tbuf ∧ t.ssl.lptr = s.ssl.lptr ∧ t.mod = s.mod := by
  have hlocate := Performs.hostIssue_eq (.sslLocate la h) nofun
  refine ⟨⟨{ s.toBlock with ssl := s.ssl.store la (locateScan s.ssl.tbuf la) }, [],
    [.locate (locateScan s.ssl.tbuf la).scount (locateScan s.ssl.tbuf la).mask]⟩, ?_, rfl, rfl, rfl⟩
  simp only [runLocate, hlocate]

theorem scount_locateScan_eq_iff (t : Memory) (la : Strategy) :
    (locateScan t la).scount.val = config.maxSectors ↔ (locateScan t la).count = 5 := by
  rw [Scan.scount_val (locateScan_count_le t la)]

/-- Once the track-side is loaded, both attempts scan the same TBUF. -/
theorem chooseMask_of_filled {b t : State} {track : List Byte} {rs : List Response}
    (hfill : hostRun b (sslFill track) = .ok (t, rs)) (hl : t.ssl.lptr.val = config.sideLen) :
    ∃ c, chooseMask b track = .ok c ∧ c.block.mod = t.mod ∧
      ((locateScan t.ssl.tbuf .fixed).count = 5 →
        c.mask = (locateScan t.ssl.tbuf .fixed).mask ∧ c.warning = false) ∧
      ((locateScan t.ssl.tbuf .fixed).count ≠ 5 → c.mask = (locateScan t.ssl.tbuf .lengthAware).mask ∧
        (c.warning = true ↔ (locateScan t.ssl.tbuf .lengthAware).count ≠ 5)) := by
  obtain ⟨t₁, hfixed, htbuf, hlptr, hmod⟩ := runLocate_eq_ok hl .fixed
  by_cases h5 : (locateScan t.ssl.tbuf .fixed).count = 5
  · have hn := (scount_locateScan_eq_iff t.ssl.tbuf .fixed).mpr h5
    refine ⟨{ block := t₁, mask := (locateScan t.ssl.tbuf .fixed).mask, warning := false }, ?_, hmod,
      fun _ => ⟨rfl, rfl⟩, fun hne => absurd h5 hne⟩
    simp only [chooseMask, hfill, hfixed, if_pos hn]
  · have hn := mt (scount_locateScan_eq_iff t.ssl.tbuf .fixed).mp h5
    obtain ⟨t₂, hlength, -, -, hmod'⟩ := runLocate_eq_ok (hlptr ▸ hl) .lengthAware
    rw [htbuf] at hlength
    refine ⟨{
      block := t₂
      mask := (locateScan t.ssl.tbuf .lengthAware).mask
      warning := decide ((locateScan t.ssl.tbuf .lengthAware).scount.val ≠ config.maxSectors) }, ?_,
      hmod'.trans hmod, fun h => absurd h h5, fun _ => ⟨rfl, ?_⟩⟩
    · simp only [chooseMask, hfill, hfixed, if_neg hn, retryLengthAware, hlength]
    · exact decide_eq_true_iff.trans (not_congr (scount_locateScan_eq_iff t.ssl.tbuf .lengthAware))

theorem chooseMask_eq_ok (b : State) {track : List Byte} (hlen : track.length = 3125) :
    ∃ c, chooseMask b track = .ok c ∧ c.block.mod = b.mod := by
  obtain ⟨t, rs, hfill, hl, hmod⟩ := hostRun_sslFill_fit b hlen
  obtain ⟨c, hc, hmod', -⟩ := chooseMask_of_filled hfill hl
  exact ⟨c, hc, hmod'.trans hmod⟩

end Sys2Proof.Machine
end

section
open Sys2Proof Sys2Proof.Machine

/-- Settles O56: filling leaves exactly the given bytes in TBUF, and both attempts scan it. -/
theorem chooseMaskPolicy : Obligations.ChooseMaskPolicy := by
  intro b track hwf hlen
  obtain ⟨t, rs, hfill, hwf', hl, hbytes⟩ := hostRun_sslFill hwf hlen
  obtain ⟨c, hc, -, hfixed, hlength⟩ := chooseMask_of_filled hfill hl
  exact ⟨c, t.ssl.tbuf, hc, hwf', hbytes, hfixed, hlength⟩
end

section
/-! SUPPORT. Lists made of pieces of one length: how long they are, and where an entry of a piece stands. -/

namespace Sys2Proof.Machine

variable {α β : Type} {f : α → List β} {n : Nat}

theorem length_flatMap_of_length (xs : List α) (h : ∀ x ∈ xs, (f x).length = n) :
    (xs.flatMap f).length = n * xs.length := by
  rw [List.length_flatMap, List.map_congr_left h, List.map_const', List.sum_replicate, smul_eq_mul, Nat.mul_comm]

/-- Entry `i` of piece `k`. -/
theorem getD_flatMap_of_length {xs : List α} (h : ∀ x ∈ xs, (f x).length = n) (d : β) {k i : Nat}
    (hk : k < xs.length) (hi : i < n) : (xs.flatMap f).getD (n * k + i) d = (f xs[k]).getD i d := by
  induction xs generalizing k with
  | nil => cases hk
  | cons x xs ih =>
    have hx := h x (List.mem_cons_self ..)
    rw [List.flatMap_cons]
    cases k with
    | zero => rw [Nat.mul_zero, Nat.zero_add, List.getD_append _ _ _ _ (hx ▸ hi), List.getElem_cons_zero]
    | succ k =>
      have hpos : n * (k + 1) + i - (f x).length = n * k + i := by rw [hx, Nat.mul_succ]; omega
      rw [List.getD_append_right _ _ _ _ (by rw [hx, Nat.mul_succ]; omega), hpos]
      exact ih (fun y hy => h y (List.mem_cons_of_mem _ hy)) (Nat.lt_of_succ_lt_succ hk)

end Sys2Proof.Machine
end

section
/-! SUPPORT. EncodeTrack and the HFE image that the host writes, as functions of the RDI image and the masks
(43_host_interface.md R196, R198, R205, R206). -/

namespace Sys2Proof.Machine

open Sys2Proof

/-- What MOD answers for chunk `k` of a track-side: its FM words, filled to 256 bytes (41_modulator.md R135). -/
def encodedChunk (track : List Byte) (m : Mask) (k : Nat) : List Byte :=
  (chunkPairs track m k).flatMap (fun p => wordBytes (fmWord p.1 p.2)) ++
    List.replicate (256 - 2 * (chunkPairs track m k).length) 0x55#8

/-- Block `k` of a track: side 1's chunk, then side 0's (43_host_interface.md R203). -/
def encodedBlock (t1 t0 : List Byte) (m1 m0 : Mask) (k : Nat) : List Byte :=
  encodedChunk t1 m1 k ++ encodedChunk t0 m0 k

/-- The masks that the locator chose for the two sides of a track. -/
structure TrackMasks where
  track : Nat
  side1 : Mask
  side0 : Mask

/-- The 25 blocks of a track of an RDI image. -/
def encodedTrack (src : List Byte) (ms : TrackMasks) : List Byte :=
  (List.range chunksPerSide).flatMap
    (encodedBlock (rdiSide src ms.track 1) (rdiSide src ms.track 0) ms.side1 ms.side0)

theorem length_chunkPairs (track : List Byte) (m : Mask) (k : Nat) :
    (chunkPairs track m k).length = min 128 (track.length - 128 * k) := by
  rw [chunkPairs, List.length_take, List.length_drop, List.length_mapIdx]

theorem length_encodedChunk (track : List Byte) (m : Mask) (k : Nat) : (encodedChunk track m k).length = 256 := by
  have hwords := length_flatMap_of_length (f := fun p : Byte × Bool => wordBytes (fmWord p.1 p.2))
    (chunkPairs track m k) (fun p _ => wordBytes_length _)
  have hle := length_chunkPairs track m k
  rw [encodedChunk, List.length_append, List.length_replicate, hwords]
  omega

theorem length_encodedBlock (t1 t0 : List Byte) (m1 m0 : Mask) (k : Nat) :
    (encodedBlock t1 t0 m1 m0 k).length = 512 := by
  rw [encodedBlock, List.length_append, length_encodedChunk, length_encodedChunk]

theorem length_encodedTrack (src : List Byte) (ms : TrackMasks) : (encodedTrack src ms).length = 12800 :=
  (length_flatMap_of_length _ fun _ _ => length_encodedBlock ..).trans (by rw [List.length_range]; rfl)

theorem runEncodeBlock_chunk {b : State} (h : b.mod.mopen = false) (track : List Byte) (m : Mask) (k : Nat) :
    ∃ b', runEncodeBlock b (chunkPairs track m k) = .ok (b', encodedChunk track m k) ∧ b'.mod.mopen = false :=
  runEncodeBlock_eq_ok h _

theorem encodeChunks_eq_ok (t1 t0 : List Byte) (m1 m0 : Mask) (ks : List Nat) {b : State}
    (h : b.mod.mopen = false) :
    ∃ b', encodeChunks t1 t0 m1 m0 b ks = .ok (b', ks.flatMap (encodedBlock t1 t0 m1 m0)) ∧
      b'.mod.mopen = false := by
  induction ks generalizing b with
  | nil => exact ⟨b, rfl, h⟩
  | cons k ks ih =>
    obtain ⟨b₁, h1, hb₁⟩ := runEncodeBlock_chunk h t1 m1 k
    obtain ⟨b₂, h0, hb₂⟩ := runEncodeBlock_chunk hb₁ t0 m0 k
    obtain ⟨b₃, hrest, hb₃⟩ := ih hb₂
    refine ⟨b₃, ?_, hb₃⟩
    simp only [encodeChunks, h1, h0, hrest, List.flatMap_cons, encodedBlock, List.append_assoc]

/-- A side of a track of a whole RDI image is a whole track-side. -/
theorem length_rdiSide {src : List Byte} (hlen : src.length = 500000) {t s : Nat} (ht : t < 80) (hs : s < 2) :
    (rdiSide src t s).length = 3125 := by
  have h2 : config.nSides = 2 := rfl
  rw [rdiSide, List.length_take, List.length_drop, hlen, h2, config_sideLen]
  omega

/-- A track of a whole RDI image is encoded, with some masks, by a block with no MOD block open. -/
theorem encodeTrack_eq_ok {src : List Byte} (hlen : src.length = 500000) {t : Nat} (ht : t < 80) {b : State}
    (h : b.mod.mopen = false) :
    ∃ r m1 m0, encodeTrack b src t = .ok r ∧ r.bytes = encodedTrack src ⟨t, m1, m0⟩ ∧
      r.block.mod.mopen = false := by
  obtain ⟨c1, h1, hb1⟩ := chooseMask_eq_ok b (length_rdiSide hlen ht (s := 1) (by decide))
  obtain ⟨c0, h0, hb0⟩ := chooseMask_eq_ok c1.block (length_rdiSide hlen ht (s := 0) (by decide))
  obtain ⟨b', hchunks, hb'⟩ := encodeChunks_eq_ok (rdiSide src t 1) (rdiSide src t 0) c1.mask c0.mask
    (List.range chunksPerSide) (b := c0.block) (by rw [hb0, hb1, h])
  refine ⟨{
    block := b'
    bytes := encodedTrack src ⟨t, c1.mask, c0.mask⟩
    warnings := warningFor c1.warning t 1 ++ warningFor c0.warning t 0 }, c1.mask, c0.mask, ?_, rfl, hb'⟩
  simp only [encodeTrack, h1, h0, hchunks, encodedTrack]

theorem encodeTracks_eq_ok {src : List Byte} (hlen : src.length = 500000) {ts : List Nat} (hts : ∀ t ∈ ts, t < 80)
    {b : State} (h : b.mod.mopen = false) :
    ∃ r, ∃ ms : List TrackMasks, encodeTracks src b ts = .ok r ∧ ms.map TrackMasks.track = ts ∧
      r.bytes = ms.flatMap (encodedTrack src) := by
  induction ts generalizing b with
  | nil => exact ⟨_, [], rfl, rfl, rfl⟩
  | cons t ts ih =>
    obtain ⟨ht, hts⟩ := List.forall_mem_cons.mp hts
    obtain ⟨r, m1, m0, htrack, hbytes, hb⟩ := encodeTrack_eq_ok hlen ht h
    obtain ⟨r', ms, hrest, hmap, hbytes'⟩ := ih hts hb
    refine ⟨{ block := r'.block, bytes := r.bytes ++ r'.bytes, warnings := r.warnings ++ r'.warnings },
      ⟨t, m1, m0⟩ :: ms, ?_, by rw [List.map_cons, hmap], by rw [List.flatMap_cons, hbytes, hbytes']⟩
    simp only [encodeTracks, htrack, hrest]

/-- The image that the host writes: the header, the lookup table, and the tracks with their masks. -/
def hfeImage (p : HostParams) (src : List Byte) (ms : List TrackMasks) : List Byte :=
  hfeHeader p ++ (hfeLookupTable ++ ms.flatMap (encodedTrack src))

/-- A run on a whole RDI image ends, with or without warnings, in an image of its 80 tracks with some masks. -/
theorem convert_rdiToHfe_eq {p : HostParams} (hd : p.direction = .rdiToHfe) {src : List Byte}
    (hlen : src.length = 500000) {b : State} (h : b.mod.mopen = false) :
    ∃ warnings, ∃ ms : List TrackMasks, convert p src b = { result := resultOf warnings, dest := hfeImage p src ms } ∧
      ms.map TrackMasks.track = List.range 80 := by
  obtain ⟨r, ms, htracks, hmap, hbytes⟩ := encodeTracks_eq_ok hlen (ts := List.range 80)
    (fun t => List.mem_range.mp) h
  have hok : ¬ src.length ≠ rdiLength := not_not.mpr hlen
  have hrun : rdiToHfe p src b = .ok { r with bytes := hfeImage p src ms } := by
    simp only [rdiToHfe, if_neg hok, htracks, hbytes, hfeImage]
  exact ⟨r.warnings, ms, (convert_of_rdiToHfe hd src b).2 _ hrun, hmap⟩

theorem length_hfeHeader (p : HostParams) : (hfeHeader p).length = 512 := by
  simp [hfeHeader, hfeSignature, le16Bytes]

theorem length_hfeLookupTable : hfeLookupTable.length = 512 := by
  have h := length_flatMap_of_length (n := 4)
    (f := fun t => le16Bytes (writtenTrackBlock t) ++ le16Bytes config.hfeTrackLenW) (List.range config.nTracks)
    fun _ _ => rfl
  rw [hfeLookupTable, List.length_append, List.length_replicate, h, List.length_range]
  rfl

theorem length_hfeImage (p : HostParams) (src : List Byte) {ms : List TrackMasks}
    (h : ms.map TrackMasks.track = List.range 80) : (hfeImage p src ms).length = 1025024 := by
  have hms : ms.length = 80 := by simpa using congrArg List.length h
  rw [hfeImage, List.length_append, List.length_append, length_hfeHeader, length_hfeLookupTable,
    length_flatMap_of_length ms fun _ _ => length_encodedTrack .., hms]

end Sys2Proof.Machine
end

section
open Sys2Proof Sys2Proof.Machine

/-- Settles O54: the BITLEN bytes of a position stay within one half of a block, and each chunk is 256 bytes. -/
theorem sideInversion : Obligations.SideInversion := by
  constructor
  · intro rate off side pos j hside hj
    have hoffset := rawOffsetFormula.1 rate off side pos
    cases rate with
    | bitlen2 =>
      have hj : j < 2 := hj
      rw [if_pos rfl] at hoffset
      omega
    | bitlen4 =>
      have hj : j < 4 := hj
      rw [if_neg nofun] at hoffset
      omega
  · intro b t1 t0 m1 m0 k h
    obtain ⟨b₁, h1, hb₁⟩ := runEncodeBlock_chunk h t1 m1 k
    obtain ⟨b₂, h0, -⟩ := runEncodeBlock_chunk hb₁ t0 m0 k
    refine ⟨b₁, b₂, _, _, h1, h0, ?_, length_encodedChunk .., length_encodedChunk ..⟩
    simp only [encodeChunks, h1, h0, List.append_nil]
end

section
/-! SUPPORT. DecodeSide and a whole run from HFE to RDI (43_host_interface.md R193, R194, R208, R210). -/

namespace Sys2Proof.Machine

open Sys2Proof

/-- A track-side that lies past the source's end, in its lookup-table entry or in one of its raw bytes. -/
def TruncatedSide (oob : OobRead) (src : List Byte) (rate : Rate) (lo : Nat) (ts : Nat × Nat) : Prop :=
  src.length ≤ lutEntry lo ts.1 + 1 ∨
    ∃ off a, trackBlock oob src lo ts.1 = .ok off ∧ a ∈ rawAddresses rate off ts.2 ∧ src.length ≤ a

/-- A track-side decodes to 3125 bytes, or its reads run past the source's end under FAULT. -/
theorem decodeSide_cases (oob : OobRead) (src : List Byte) (rate : Rate) (lo : Nat) (b : State) (ts : Nat × Nat) :
    (∃ t out, decodeSide oob src rate lo b ts.1 ts.2 = .ok (t, out) ∧ out.length = 3125) ∨
      (oob = .fault ∧ TruncatedSide oob src rate lo ts ∧
        decodeSide oob src rate lo b ts.1 ts.2 = .error .sourceTruncated) := by
  rcases srcU16_cases oob src (lutEntry lo ts.1) with ⟨off, hoff, -⟩ | ⟨hf, hle, hoff⟩
  · rcases srcBytes_cases oob src (rawAddresses rate off ts.2) with ⟨raw, hraw⟩ | ⟨hf, ⟨a, ha, hle⟩, hraw⟩
    · obtain ⟨t, hrun, -⟩ := runDecode_eq_ok b rate raw
      exact .inl ⟨t, _, by simp only [decodeSide, trackBlock, hoff, hraw, hrun],
        (Dem.decoded_legal rate raw).2.length_trackSide⟩
    · exact .inr ⟨hf, .inr ⟨off, a, hoff, ha, hle⟩, by simp only [decodeSide, trackBlock, hoff, hraw]⟩
  · exact .inr ⟨hf, .inl hle, by simp only [decodeSide, trackBlock, hoff]⟩

theorem decodeSides_cases (oob : OobRead) (src : List Byte) (rate : Rate) (lo : Nat) (b : State)
    (sides : List (Nat × Nat)) :
    (∃ out, decodeSides oob src rate lo b sides = .ok out ∧ out.length = 3125 * sides.length) ∨
      (oob = .fault ∧ (∃ ts ∈ sides, TruncatedSide oob src rate lo ts) ∧
        decodeSides oob src rate lo b sides = .error .sourceTruncated) := by
  induction sides generalizing b with
  | nil => exact .inl ⟨[], rfl, rfl⟩
  | cons ts sides ih =>
    rcases decodeSide_cases oob src rate lo b ts with ⟨t, out, hside, hlen⟩ | ⟨hf, htrunc, hside⟩
    · rcases ih t with ⟨more, hmore, hlen'⟩ | ⟨hf, ⟨ts', hmem, htrunc⟩, hmore⟩
      · refine .inl ⟨out ++ more, by simp only [decodeSides, hside, hmore], ?_⟩
        rw [List.length_append, List.length_cons, hlen, hlen', Nat.mul_succ, Nat.add_comm]
      · exact .inr ⟨hf, ⟨ts', List.mem_cons_of_mem _ hmem, htrunc⟩, by simp only [decodeSides, hside, hmore]⟩
    · exact .inr ⟨hf, ⟨ts, List.mem_cons_self .., htrunc⟩, by simp only [decodeSides, hside]⟩

theorem length_trackSides : trackSides.length = 160 :=
  length_flatMap_of_length (n := 2) (List.range 80) fun _ _ => rfl

theorem mem_trackSides {ts : Nat × Nat} (h : ts ∈ trackSides) : ts.1 < 80 ∧ ts.2 < 2 := by
  obtain ⟨t, ht, hmem⟩ := List.mem_flatMap.mp h
  obtain ⟨s, hs, rfl⟩ := List.mem_map.mp hmem
  exact ⟨List.mem_range.mp ht, List.mem_range.mp hs⟩

/-- The raw bytes of a track-side lie within the bounds of 43_host_interface.md R202's table. -/
theorem lt_of_mem_rawAddresses {rate : Rate} {off s a : Nat} (h : a ∈ rawAddresses rate off s) :
    a < 512 * off + (if rate = .bitlen2 then 12650 else 25044) := by
  obtain ⟨pos, hpos, ha⟩ := List.mem_flatMap.mp h
  obtain ⟨j, hj, rfl⟩ := List.mem_map.mp ha
  have hpos : pos < 3125 := List.mem_range.mp hpos
  have hoffset := rawOffsetFormula.1 rate off s pos
  cases rate with
  | bitlen2 =>
    have hj : j < 2 := List.mem_range.mp hj
    rw [if_pos rfl] at hoffset ⊢
    omega
  | bitlen4 =>
    have hj : j < 4 := List.mem_range.mp hj
    rw [if_neg nofun] at hoffset ⊢
    omega

/-- A source that passes validation under FAULT holds the lookup-table entries of its 80 tracks. -/
theorem lutEntry_lt_of_validateHfe_ok {src : List Byte} {rate : Rate} {lo t : Nat}
    (h : validateHfe .fault src = .ok (rate, lo)) (ht : t < 80) : lutEntry lo t + 3 < src.length := by
  obtain ⟨len, hl⟩ := exists_trackLen_of_checkTrackLens_ok (checkTrackLens_of_validateHfe_ok h) t
    (List.mem_range.mpr ht)
  rcases srcU16_cases .fault src (lutEntry lo t + 2) with ⟨-, -, hlt⟩ | ⟨-, -, he⟩
  · exact hlt rfl
  · cases hl.symm.trans he

theorem hfeToRdi_of_validateHfe_ok {oob : OobRead} {src : List Byte} {rate : Rate} {lo : Nat}
    (h : validateHfe oob src = .ok (rate, lo)) (b : State) :
    hfeToRdi oob src b = decodeSides oob src rate lo b trackSides := by
  simp only [hfeToRdi, h]

/-- A run on a source that passes validation is clean and complete, or some track-side is truncated under FAULT. -/
theorem convert_hfeToRdi_cases {p : HostParams} (hd : p.direction = .hfeToRdi) {src : List Byte} {rate : Rate}
    {lo : Nat} (hv : validateHfe p.oobRead src = .ok (rate, lo)) (b : State) :
    (∃ out, convert p src b = { result := .clean, dest := out } ∧ out.length = 500000) ∨
      (p.oobRead = .fault ∧ (∃ ts ∈ trackSides, TruncatedSide p.oobRead src rate lo ts) ∧
        convert p src b = { result := .hard .sourceTruncated, dest := [] }) := by
  obtain ⟨herr, hok⟩ := convert_of_hfeToRdi hd src b
  rcases decodeSides_cases p.oobRead src rate lo b trackSides with ⟨out, hrun, hlen⟩ | ⟨hf, htrunc, hrun⟩
  · exact .inl ⟨out, hok out ((hfeToRdi_of_validateHfe_ok hv b).trans hrun), by rw [hlen, length_trackSides]⟩
  · exact .inr ⟨hf, htrunc, herr _ ((hfeToRdi_of_validateHfe_ok hv b).trans hrun)⟩

end Sys2Proof.Machine
end

section
open Sys2Proof Sys2Proof.Machine

/-- Settles O52: before any command only the checks can fail, every read fails as SourceTruncated, and the encoder's
commands are all answered. -/
theorem hostNeverFaultsBlock : Obligations.HostNeverFaultsBlock := by
  intro p src b hb
  cases hd : p.direction with
  | hfeToRdi =>
    cases hv : validateHfe p.oobRead src with
    | error e =>
      rw [(convert_of_hfeToRdi hd src b).1 e (by simp only [hfeToRdi, hv])]
      exact fun h => ne_blockFault_of_validateHfe_error hv (RunResult.hard.inj h)
    | ok v =>
      rcases convert_hfeToRdi_cases hd hv b with ⟨out, hrun, -⟩ | ⟨-, -, hrun⟩ <;> rw [hrun] <;> nofun
  | rdiToHfe =>
    by_cases hlen : src.length = 500000
    · obtain ⟨warnings, ms, hrun, -⟩ := convert_rdiToHfe_eq hd hlen hb
      rw [hrun]
      exact resultOf_ne_hard warnings _
    · have hlen : src.length ≠ rdiLength := hlen
      rw [(convert_of_rdiToHfe hd src b).1 .unsupportedGeometry (if_pos hlen)]
      nofun

/-- Settles O58: the image's parts have fixed lengths; and a truncated track-side would have an entry that validation
read, or a raw byte past the bound of its rate. -/
theorem imageSizes : Obligations.ImageSizes := by
  constructor
  · intro p src b hd hlen hb
    obtain ⟨warnings, ms, hrun, hms⟩ := convert_rdiToHfe_eq hd hlen hb
    rw [hrun]
    exact ⟨length_hfeImage p src hms, length_hfeImage p src hms⟩
  · intro p src b rate lo hd hv
    rcases convert_hfeToRdi_cases hd hv b with ⟨out, hrun, hlen⟩ | ⟨hf, ⟨ts, hmem, htrunc⟩, hrun⟩
    · rw [hrun]
      exact ⟨.inl ⟨rfl, hlen⟩, fun _ => ⟨rfl, hlen⟩⟩
    · refine ⟨.inr ⟨hf, by rw [hrun]⟩, fun hbound => ?_⟩
      obtain ⟨ht, -⟩ := mem_trackSides hmem
      rcases htrunc with hle | ⟨off, a, hoff, ha, hle⟩
      · rw [hf] at hv
        have := lutEntry_lt_of_validateHfe_ok hv ht
        omega
      · have := hbound ts.1 off ht hoff
        have := lt_of_mem_rawAddresses ha
        omega
end

section
/-! SUPPORT. Reading back the HFE image that the host wrote (43_host_interface.md R205, R206, R209). -/

namespace Sys2Proof.Machine

open Sys2Proof

theorem le16_le16Bytes {n : Nat} (h : n < 65536) :
    le16 ((le16Bytes n).getD 0 0#8) ((le16Bytes n).getD 1 0#8) = n := by
  simp [le16, le16Bytes]
  omega

variable (p : HostParams) (body : List Byte)

/-- The header's own bytes pass the first three checks (43_host_interface.md R205). -/
theorem headerPasses_written : HeaderPasses (hfeHeader p ++ body) where
  length := by
    rw [List.length_append, length_hfeHeader]
    omega
  signature := rfl
  revision := rfl
  tracks := rfl
  sides := rfl

theorem srcU16_written_bitrate (oob : OobRead) : srcU16 oob (hfeHeader p ++ body) 12 = .ok 125 := rfl

theorem srcU16_written_lutBlock (oob : OobRead) : srcU16 oob (hfeHeader p ++ body) 18 = .ok 1 := rfl

/-- Byte `i` of entry `t` of the written lookup table. -/
theorem getD_written_lutEntry {t i : Nat} (ht : t < 80) (hi : i < 4) :
    (hfeHeader p ++ (hfeLookupTable ++ body)).getD (lutEntry 1 t + i) 0#8 =
      (le16Bytes (2 + 25 * t) ++ le16Bytes 12504).getD i 0#8 := by
  have hentry : lutEntry 1 t = 512 + 4 * t := rfl
  have hpos : lutEntry 1 t + i - (hfeHeader p).length = 4 * t + i := by rw [length_hfeHeader]; omega
  have hlen := length_flatMap_of_length (n := 4)
    (f := fun t => le16Bytes (writtenTrackBlock t) ++ le16Bytes config.hfeTrackLenW) (List.range 80) fun _ _ => rfl
  rw [List.length_range] at hlen
  rw [List.getD_append_right _ _ _ _ (by rw [length_hfeHeader]; omega), hpos, hfeLookupTable, List.append_assoc,
    List.getD_append _ _ _ _ (by rw [hlen]; omega),
    getD_flatMap_of_length (n := 4) (fun _ _ => rfl) 0#8 (List.length_range.symm ▸ ht) hi, List.getElem_range]
  rfl

/-- Entry `t` of the written lookup table: OFF(t) = 2 + 25t and LEN(t) = 12504 (43_host_interface.md R205). -/
theorem lutEntry_written (oob : OobRead) {t : Nat} (ht : t < 80) :
    trackBlock oob (hfeHeader p ++ (hfeLookupTable ++ body)) 1 t = .ok (2 + 25 * t) ∧
      trackLen oob (hfeHeader p ++ (hfeLookupTable ++ body)) 1 t = .ok 12504 := by
  have hentry : lutEntry 1 t = 512 + 4 * t := rfl
  have hlen : 1024 ≤ (hfeHeader p ++ (hfeLookupTable ++ body)).length := by
    rw [List.length_append, List.length_append, length_hfeHeader, length_hfeLookupTable]
    omega
  constructor
  · have hlo := getD_written_lutEntry p body ht (i := 0) (by decide)
    have hhi := getD_written_lutEntry p body ht (i := 1) (by decide)
    rw [Nat.add_zero] at hlo
    rw [trackBlock, srcU16_of_lt (by omega), hlo, hhi]
    exact congrArg _ (le16_le16Bytes (by omega))
  · have hlo := getD_written_lutEntry p body ht (i := 2) (by decide)
    have hhi := getD_written_lutEntry p body ht (i := 3) (by decide)
    rw [trackLen, srcU16_of_lt (by omega), hlo, hhi]
    exact congrArg _ (le16_le16Bytes (by decide))

theorem validateHfe_written (oob : OobRead) :
    validateHfe oob (hfeHeader p ++ (hfeLookupTable ++ body)) = .ok (.bitlen2, 1) :=
  ((headerPasses_written p _).of_rate (srcU16_written_bitrate p _ oob) rfl (srcU16_written_lutBlock p _ oob)).1
    (checkTrackLens_ok fun _ ht => ⟨12504, (lutEntry_written p body oob (List.mem_range.mp ht)).2, by decide⟩)

/-- The mask that the locator chose for side `s`. -/
def TrackMasks.mask (ms : TrackMasks) : Nat → Mask
  | 0 => ms.side0
  | _ => ms.side1

/-- Where the FM word of a track-side's byte stands among its chunks. -/
theorem getD_encodedChunk {track : List Byte} (hlen : track.length = 3125) (m : Mask) {pos j : Nat}
    (hpos : pos < 3125) (hj : j < 2) :
    (encodedChunk track m (pos / 128)).getD (2 * (pos % 128) + j) 0#8 =
      (wordBytes (fmWord (track.getD pos 0#8) (m.getLsbD pos))).getD j 0#8 := by
  have hk := length_chunkPairs track m (pos / 128)
  have hlt : pos % 128 < (chunkPairs track m (pos / 128)).length := by omega
  have hidx : 128 * (pos / 128) + pos % 128 = pos := Nat.div_add_mod pos 128
  have hpair : (chunkPairs track m (pos / 128))[pos % 128] = (track.getD pos 0#8, m.getLsbD pos) := by
    simp [chunkPairs, hidx, hlen, hpos]
  have hwords := length_flatMap_of_length (f := fun p : Byte × Bool => wordBytes (fmWord p.1 p.2))
    (chunkPairs track m (pos / 128)) (fun p _ => wordBytes_length _)
  rw [encodedChunk, List.getD_append _ _ _ _ (by rw [hwords]; omega),
    getD_flatMap_of_length (fun p _ => wordBytes_length _) 0#8 hlt hj, hpair]

/-- Side 1's chunk is the first half of a block, side 0's the second (43_host_interface.md R203). -/
theorem getD_encodedBlock (t1 t0 : List Byte) (m1 m0 : Mask) (k : Nat) {i : Nat} (hi : i < 256) :
    (encodedBlock t1 t0 m1 m0 k).getD i 0#8 = (encodedChunk t1 m1 k).getD i 0#8 ∧
      (encodedBlock t1 t0 m1 m0 k).getD (256 + i) 0#8 = (encodedChunk t0 m0 k).getD i 0#8 := by
  have h1 := length_encodedChunk t1 m1 k
  constructor
  · rw [encodedBlock, List.getD_append _ _ _ _ (by omega)]
  · rw [encodedBlock, List.getD_append_right _ _ _ _ (by omega), h1, Nat.add_sub_cancel_left]

/-- Where the FM word of a byte stands in its track, as HfeRawOffset of a track at block 0 says. -/
theorem getD_encodedTrack {src : List Byte} (hlen : src.length = 500000) (ms : TrackMasks) (ht : ms.track < 80)
    {s pos j : Nat} (hs : s < 2) (hpos : pos < 3125) (hj : j < 2) :
    (encodedTrack src ms).getD (hfeRawOffset .bitlen2 0 s pos + j) 0#8 =
      (wordBytes (fmWord ((rdiSide src ms.track s).getD pos 0#8) ((ms.mask s).getLsbD pos))).getD j 0#8 := by
  have hk : pos / 128 < (List.range chunksPerSide).length := by
    have : chunksPerSide = 25 := rfl
    rw [List.length_range]
    omega
  have hoffset : hfeRawOffset .bitlen2 0 s pos + j =
      512 * (pos / 128) + ((1 - s) * 256 + (2 * (pos % 128) + j)) := by
    have := rawOffsetFormula.1 .bitlen2 0 s pos
    rw [if_pos rfl] at this
    omega
  rw [hoffset, encodedTrack, getD_flatMap_of_length (fun _ _ => length_encodedBlock ..) 0#8 hk (by omega),
    List.getElem_range]
  obtain ⟨hfirst, hsecond⟩ := getD_encodedBlock (rdiSide src ms.track 1) (rdiSide src ms.track 0) ms.side1 ms.side0
    (pos / 128) (i := 2 * (pos % 128) + j) (by omega)
  obtain rfl | rfl : s = 0 ∨ s = 1 := by omega
  · exact hsecond.trans (getD_encodedChunk (length_rdiSide hlen ht hs) ms.side0 hpos hj)
  · rw [Nat.sub_self, Nat.zero_mul, Nat.zero_add]
    exact hfirst.trans (getD_encodedChunk (length_rdiSide hlen ht hs) ms.side1 hpos hj)

variable {p} {src : List Byte} {ms : List TrackMasks}

/-- The two raw bytes of a position in the written image are the FM word of its byte, with some mask. -/
theorem exists_mask_getD_hfeImage (hlen : src.length = 500000) (hms : ms.map TrackMasks.track = List.range 80)
    {t s : Nat} (ht : t < 80) (hs : s < 2) :
    ∃ m : Mask, ∀ pos, pos < 3125 → ∀ j, j < 2 →
      (hfeImage p src ms).getD (hfeRawOffset .bitlen2 (2 + 25 * t) s pos + j) 0#8 =
        (wordBytes (fmWord ((rdiSide src t s).getD pos 0#8) (m.getLsbD pos))).getD j 0#8 := by
  have hcount : ms.length = 80 := by simpa using congrArg List.length hms
  have htrack : (ms[t]'(hcount ▸ ht)).track = t := by
    have := List.getElem_range (n := 80) (j := t) (by simpa using ht)
    simpa [← hms] using this
  refine ⟨(ms[t]'(hcount ▸ ht)).mask s, fun pos hpos j hj => ?_⟩
  have hword := getD_encodedTrack hlen (ms[t]'(hcount ▸ ht)) (htrack.symm ▸ ht) hs hpos hj
  have hoff := rawOffsetFormula.1 .bitlen2 (2 + 25 * t) s pos
  have hoff0 := rawOffsetFormula.1 .bitlen2 0 s pos
  rw [if_pos rfl] at hoff hoff0
  have hoffset : hfeRawOffset .bitlen2 (2 + 25 * t) s pos + j =
      (hfeHeader p ++ hfeLookupTable).length + (12800 * t + (hfeRawOffset .bitlen2 0 s pos + j)) := by
    rw [List.length_append, length_hfeHeader, length_hfeLookupTable]
    omega
  rw [hoffset, hfeImage, ← List.append_assoc, List.getD_append_right _ _ _ _ (Nat.le_add_right ..),
    Nat.add_sub_cancel_left,
    getD_flatMap_of_length (fun _ _ => length_encodedTrack ..) 0#8 (hcount ▸ ht) (by omega), hword, htrack]

/-- The bytes of a track-side with the mask's bits as their sync flags. -/
def flaggedBytes (track : List Byte) (m : Mask) : List (Byte × Bool) :=
  (List.range 3125).map (fun pos => (track.getD pos 0#8, m.getLsbD pos))

theorem map_fst_flaggedBytes {track : List Byte} (h : track.length = 3125) (m : Mask) :
    (flaggedBytes track m).map Prod.fst = track := by
  refine List.ext_getElem (by simp [flaggedBytes, h]) fun i hi hi' => ?_
  simp [flaggedBytes, hi']

/-- The raw bytes of a track-side of the written image are the FM words of its bytes, with some mask. -/
theorem srcBytes_hfeImage (oob : OobRead) (hlen : src.length = 500000)
    (hms : ms.map TrackMasks.track = List.range 80) {t s : Nat} (ht : t < 80) (hs : s < 2) :
    ∃ m, srcBytes oob (hfeImage p src ms) (rawAddresses .bitlen2 (2 + 25 * t) s) =
      .ok ((flaggedBytes (rdiSide src t s) m).flatMap (fun q => wordBytes (fmWord q.1 q.2))) := by
  obtain ⟨m, hm⟩ := exists_mask_getD_hfeImage (p := p) hlen hms ht hs
  refine ⟨m, (srcBytes_of_lt fun a ha => ?_).trans (congrArg _ ?_)⟩
  · have := lt_of_mem_rawAddresses ha
    rw [if_pos rfl] at this
    rw [length_hfeImage p src hms]
    omega
  · rw [rawAddresses, List.map_flatMap, flaggedBytes, List.flatMap_map]
    refine List.flatMap_congr fun pos hpos => ?_
    have hword := hm pos (List.mem_range.mp hpos)
    have h0 := hword 0 (by decide)
    have h1 := hword 1 (by decide)
    simp only [bitLenOfRate, List.range_succ, List.range_zero, List.nil_append, List.cons_append, List.map_cons,
      List.map_nil, h0, h1]
    rfl

/-- DecodeSide on the written image gives the RDI image's track-side back. -/
theorem decodeSide_hfeImage (oob : OobRead) (hlen : src.length = 500000)
    (hms : ms.map TrackMasks.track = List.range 80) (b : State) {ts : Nat × Nat} (h : ts ∈ trackSides) :
    ∃ b', decodeSide oob (hfeImage p src ms) .bitlen2 1 b ts.1 ts.2 = .ok (b', rdiSide src ts.1 ts.2) := by
  obtain ⟨ht, hs⟩ := mem_trackSides h
  obtain ⟨m, hraw⟩ := srcBytes_hfeImage (p := p) oob hlen hms ht hs
  obtain ⟨b', hrun, -⟩ := runDecode_eq_ok b .bitlen2
    ((flaggedBytes (rdiSide src ts.1 ts.2) m).flatMap (fun q => wordBytes (fmWord q.1 q.2)))
  have hside := length_rdiSide hlen ht hs
  have hobuf := Dem.obuf_decoded_fmWords (flaggedBytes (rdiSide src ts.1 ts.2) m)
  rw [map_fst_flaggedBytes hside, List.take_of_length_le (Nat.le_of_eq hside)] at hobuf
  have hout : (Dem.decoded .bitlen2
      ((flaggedBytes (rdiSide src ts.1 ts.2) m).flatMap (fun q => wordBytes (fmWord q.1 q.2)))).trackSide =
        rdiSide src ts.1 ts.2 := by
    rw [Dem.trackSide, hobuf, hside, config_sideLen, Nat.sub_self, List.replicate_zero, List.append_nil]
  refine ⟨b', ?_⟩
  simp only [decodeSide, (lutEntry_written p _ oob ht).1, hfeImage] at hraw ⊢
  simp only [hraw, hrun, hout]

/-- Track-sides that each decode give their concatenation. -/
theorem decodeSides_eq_ok {oob : OobRead} {rate : Rate} {lo : Nat} {sides : List (Nat × Nat)}
    {side : Nat × Nat → List Byte}
    (h : ∀ b, ∀ ts ∈ sides, ∃ b', decodeSide oob src rate lo b ts.1 ts.2 = .ok (b', side ts)) (b : State) :
    decodeSides oob src rate lo b sides = .ok (sides.flatMap side) := by
  induction sides generalizing b with
  | nil => rfl
  | cons ts sides ih =>
    obtain ⟨b', hside⟩ := h b ts (List.mem_cons_self ..)
    have hrest := ih (fun b x hx => h b x (List.mem_cons_of_mem _ hx)) b'
    simp only [decodeSides, hside, hrest, List.flatMap_cons]

theorem rdiSide_eq (src : List Byte) (t s : Nat) :
    rdiSide src t s = (src.drop (6250 * t + 3125 * s)).take 3125 := by
  have hpos : (config.nSides * t + s) * config.sideLen = 6250 * t + 3125 * s := by
    change (2 * t + s) * 3125 = 6250 * t + 3125 * s
    omega
  rw [rdiSide, hpos]

/-- The sides of an RDI image's tracks stand one after the other (43_host_interface.md R207). -/
theorem flatMap_rdiSide_eq_take (src : List Byte) (n : Nat) :
    (List.range n).flatMap (fun t => rdiSide src t 0 ++ rdiSide src t 1) = src.take (6250 * n) := by
  induction n with
  | zero => rfl
  | succ n ih =>
    rw [List.range_succ, List.flatMap_append, ih, List.flatMap_singleton, rdiSide_eq, rdiSide_eq, Nat.mul_zero,
      Nat.add_zero, Nat.mul_one, ← List.append_assoc,
      ← List.take_add, ← List.take_add]
    rfl

theorem flatMap_trackSides_rdiSide (hlen : src.length = 500000) :
    trackSides.flatMap (fun ts => rdiSide src ts.1 ts.2) = src := by
  have hpair : trackSides.flatMap (fun ts => rdiSide src ts.1 ts.2) =
      (List.range 80).flatMap (fun t => rdiSide src t 0 ++ rdiSide src t 1) := by
    rw [trackSides, List.flatMap_assoc]
    exact List.flatMap_congr fun t _ => congrArg (rdiSide src t 0 ++ ·) (List.append_nil (rdiSide src t 1))
  rw [hpair, flatMap_rdiSide_eq_take, List.take_of_length_le (Nat.le_of_eq hlen)]

end Sys2Proof.Machine
end

section
open Sys2Proof Sys2Proof.Machine

/-- Settles O59: the image that the host wrote passes validation, and each of its track-sides, whatever its mask,
decodes to the RDI image's. -/
theorem systemRoundTrip : Obligations.SystemRoundTrip := by
  intro p p' src b b' hd hd' hlen hb
  obtain ⟨warnings, ms, hrun, hms⟩ := convert_rdiToHfe_eq hd hlen hb
  rw [hrun]
  refine ⟨resultOf_ne_hard warnings, (convert_of_hfeToRdi hd' _ b').2 src ?_⟩
  have hv : validateHfe p'.oobRead (hfeImage p src ms) = .ok (.bitlen2, 1) := validateHfe_written p _ p'.oobRead
  calc hfeToRdi p'.oobRead (hfeImage p src ms) b'
      = decodeSides p'.oobRead (hfeImage p src ms) .bitlen2 1 b' trackSides := hfeToRdi_of_validateHfe_ok hv b'
    _ = .ok (trackSides.flatMap fun ts => rdiSide src ts.1 ts.2) :=
      decodeSides_eq_ok (fun b _ h => decodeSide_hfeImage p'.oobRead hlen hms b h) b'
    _ = .ok src := by rw [flatMap_trackSides_rdiSide hlen]
end

section
/-! SUPPORT. The value that REG_READ answers with for each register, as a number field by field
(44_register_read.md R230). -/

namespace Sys2Proof.Machine

open Sys2Proof

theorem SampleStep.bit_toNat (st : SampleStep) : st.bit.toNat = if st = .two then 1 else 0 := by cases st <;> rfl

theorem Phase.bit_toNat (p : Phase) : p.bit.toNat = if p = .data then 1 else 0 := by cases p <;> rfl

theorem strategyBit_toNat (la : Strategy) : (strategyBit la).toNat = if la = .lengthAware then 1 else 0 := by
  cases la <;> rfl

theorem boolToNat_eq_ite (x : Bool) : x.toNat = if x then 1 else 0 := by cases x <;> rfl

/-- A 32-bit value is known by its number. -/
theorem eq_ofNat_of_toNat_eq {v : BitVec 32} {n : Nat} (h : v.toNat = n) : v = BitVec.ofNat 32 n := by
  rw [← h, BitVec.ofNat_toNat, BitVec.setWidth_eq]

theorem Dem.dstat_eq_ofNat (d : Dem) :
    d.dstat = BitVec.ofNat 32 (16 * d.bcnt.val + 4 * (if d.step = .two then 1 else 0) +
      2 * (if d.phase = .data then 1 else 0) + (if d.dinit then 1 else 0)) := by
  rw [← SampleStep.bit_toNat, ← Phase.bit_toNat, ← boolToNat_eq_ite]
  exact eq_ofNat_of_toNat_eq d.dstat_toNat

theorem Mod.mstat_eq_ofNat (m : Mod) : m.mstat = BitVec.ofNat 32 (if m.mopen then 1 else 0) := by
  rw [← boolToNat_eq_ite]
  exact eq_ofNat_of_toNat_eq (bit32_toNat m.mopen)

theorem Ssl.sres_eq_ofNat (l : Ssl) :
    l.sres = BitVec.ofNat 32 (32 * l.sstop.code + 16 * (if l.sstrat = .lengthAware then 1 else 0) +
      2 * l.scount.val + (if l.rvalid then 1 else 0)) := by
  rw [← strategyBit_toNat, ← boolToNat_eq_ite]
  exact eq_ofNat_of_toNat_eq l.sres_toNat

theorem Errs.estat_eq_ofNat (e : Errs) :
    e.estat = BitVec.ofNat 32 (16 * e.ecode.toNat + (if e.err then 1 else 0)) := by
  rw [← boolToNat_eq_ite]
  exact eq_ofNat_of_toNat_eq e.estat_toNat

/-- A register that has a value is answered with it, and nothing else changes. -/
theorem exec_regRead_of_register {s : State} {reg : Byte} {v : BitVec 32} (h : s.register reg = some v) :
    exec (.regRead reg) s = .next { s with resps := s.resps ++ [.word v] } :=
  (Performs.regRead h).exec_eq s.cmds s.resps

/-- The eight cells of 0x55 after a reset at STEP 1 are four clock and four data cells, and none realigns: DSTAT then
shows BCNT = 4, STEP = 1, PHASE = SYNC and DINIT = 1 (44_register_read.md R230). -/
theorem Dem.dstat_feed_newTrack : ((Dem.newTrack .bitlen2).feed 0x55#8).dstat = 0x00000041#32 := by decide

end Sys2Proof.Machine
end

section
open Sys2Proof Sys2Proof.Machine

/-- Settles O49: each register's value from its fields' places, no value for a number from 0x0A on, and 0xA0 as the high
byte of every word of REG_READ. -/
theorem regReadResult : Obligations.RegReadResult := by
  refine ⟨fun s => ?_,
    fun r s hr => (Fails.regRead (s.toBlock.register_of_ge hr)).exec_eq s.cmds s.resps, fun b => ?_,
    fun r => (decode_eq_ok_iff _ _).mpr (by simp [encode, Instr.command, Command.toWord]), fun w hop hhigh => ?_⟩
  · simp only [List.forall_mem_cons]
    refine ⟨exec_regRead_of_register (congrArg some s.dem.dstat_eq_ofNat),
      exec_regRead_of_register (congrArg some (eq_ofNat_of_toNat_eq (zext32_toNat s.dem.dacc))),
      exec_regRead_of_register (congrArg some (eq_ofNat_of_toNat_eq (zext32_toNat s.dem.sacc))),
      exec_regRead_of_register rfl,
      exec_regRead_of_register (congrArg some s.mod.mstat_eq_ofNat),
      exec_regRead_of_register rfl,
      exec_regRead_of_register rfl,
      exec_regRead_of_register (congrArg some s.ssl.sres_eq_ofNat),
      exec_regRead_of_register (congrArg some (eq_ofNat_of_toNat_eq rfl)),
      exec_regRead_of_register (congrArg some s.errs.estat_eq_ofNat), nofun⟩
  · have hreset := Performs.hostIssue_eq (s := b) (.demReset .bitlen2) nofun
    have hfeed := (performs_demFeed_syncBytes b.toBlock).1.hostIssue_eq (s := ⟨_, [], [.ack]⟩) nofun
    have hread := Performs.hostIssue_eq
      (s := ⟨{ b.toBlock with dem := (Dem.newTrack .bitlen2).feed 0x55#8 }, [], [.ack]⟩)
      (.regRead (reg := 0x00#8) (congrArg some Dem.dstat_feed_newTrack)) nofun
    exact ⟨_, hostRun_cons_ok hreset (hostRun_cons_ok hfeed (hostRun_cons_ok hread (hostRun_nil _)))⟩
  · refine raisesIllegal_of_op hop fun i hi hw => ?_
    cases i with
    | regRead reg => exact hhigh (hw ▸ toNat_encode_div (.regRead reg))
    | _ => simp [Instr.command] at hi
end

section
/-! SUPPORT. The table of block errors, read off the error conditions of the commands (60_exceptions.md R242). -/

namespace Sys2Proof.Machine

open Sys2Proof

variable {b b' : Block} {i : Instr} {r : Response} {c : ErrCode}

theorem Block.register_eq_none_iff (b : Block) (reg : Byte) : b.register reg = none ↔ 0x0A ≤ reg.toNat := by
  refine ⟨fun h => Nat.le_of_not_lt fun hlt => ?_, b.register_of_ge⟩
  have hsome := b.register_of_lt hlt
  simp [h] at hsome

/-- No command responds an error but by failing, and then it changes nothing but the error record. -/
theorem performs_error_iff : Performs b i (.error c) b' ↔ Fails b i c ∧ b' = { b with errs := b.errs.record c } := by
  constructor
  · intro h
    cases h with
    | fails h => exact ⟨h, rfl⟩
  · rintro ⟨h, rfl⟩
    exact .fails h

/-- A command that responds an error has failed, and has raised that error. -/
theorem fails_of_exec_eq {s t : State} (h : exec i s = .next t) (hr : t.resps = s.resps ++ [.error c]) :
    Fails s.toBlock i c ∧ t = s.raise c := by
  obtain ⟨r, b', hp⟩ := exists_performs s.toBlock i
  cases (hp.exec_eq s.cmds s.resps).symm.trans h
  obtain rfl : r = .error c := by simpa using hr
  obtain ⟨hf, rfl⟩ := performs_error_iff.mp hp
  exact ⟨hf, rfl⟩

theorem respondsError_iff_fails (i : Instr) (s : State) (c : ErrCode) : RespondsError i s c ↔ Fails s.toBlock i c :=
  ⟨fun ⟨_, h, hr⟩ => (fails_of_exec_eq h hr).1, fun h => ⟨_, h.exec_eq s.cmds s.resps, rfl⟩⟩

theorem fails_illegal_iff : Fails b i .illegal ↔ ∃ reg : Byte, i = .regRead reg ∧ 0x0A ≤ reg.toNat := by
  constructor
  · intro h
    cases h with
    | regRead h => exact ⟨_, rfl, (b.register_eq_none_iff _).mp h⟩
  · rintro ⟨reg, rfl, h⟩
    exact .regRead (b.register_of_ge h)

theorem fails_demNoInit_iff :
    Fails b i .demNoInit ↔ ((∃ raw, i = .demFeed raw) ∨ i = .demFinish) ∧ b.dem.dinit = false := by
  constructor
  · intro h
    cases h with
    | demFeed h => exact ⟨.inl ⟨_, rfl⟩, h⟩
    | demFinish h => exact ⟨.inr rfl, h⟩
  · rintro ⟨⟨raw, rfl⟩ | rfl, h⟩
    · exact .demFeed h
    · exact .demFinish h

theorem fails_modSeq_iff :
    Fails b i .modSeq ↔ (i = .modBegin ∧ b.mod.mopen = true) ∨
      (((∃ sync data, i = .modWord sync data) ∨ i = .modEnd) ∧ b.mod.mopen = false) := by
  constructor
  · intro h
    cases h with
    | modBegin h => exact .inl ⟨rfl, h⟩
    | modWord h => exact .inr ⟨.inl ⟨_, _, rfl⟩, h⟩
    | modEnd h => exact .inr ⟨.inr rfl, h⟩
  · rintro (⟨rfl, h⟩ | ⟨⟨sync, data, rfl⟩ | rfl, h⟩)
    · exact .modBegin h
    · exact .modWord h
    · exact .modEnd h

/-- LPTR does not pass 3125, so a load that is out of room has it there (42_sector_locator.md R153). -/
theorem fails_sslFull_iff : Fails b i .sslFull ↔ (∃ data, i = .sslLoad data) ∧ b.ssl.lptr.val = 3125 := by
  constructor
  · intro h
    cases h with
    | sslLoad h => exact ⟨⟨_, rfl⟩, b.ssl.lptr_le.antisymm (Nat.le_of_not_lt h)⟩
  · rintro ⟨⟨data, rfl⟩, h⟩
    exact .sslLoad h.not_lt

theorem fails_sslNotLoaded_iff :
    Fails b i .sslNotLoaded ↔ (∃ la, i = .sslLocate la) ∧ b.ssl.lptr.val ≠ 3125 := by
  constructor
  · intro h
    cases h with
    | sslLocate h => exact ⟨⟨_, rfl⟩, h⟩
  · rintro ⟨⟨la, rfl⟩, h⟩
    exact .sslLocate h

end Sys2Proof.Machine
end

section
/-! SUPPORT. The error state enters a command only through ESTAT: with another one, every command word does the same to
DEM, MOD and SSL (60_exceptions.md R241). -/

namespace Sys2Proof.Machine

open Sys2Proof

variable {b b' : Block} {i : Instr} {r : Response} {c : ErrCode} {w : Word}

/-- The block with another error state. -/
def Block.withErrs (b : Block) (e : Errs) : Block := { b with errs := e }

/-- Only ESTAT, register 0x09, shows the error state (10_state.md R40). -/
theorem Block.register_withErrs (b : Block) (e : Errs) {reg : Byte} (h : reg ≠ 0x09#8) :
    (b.withErrs e).register reg = b.register reg := by
  by_cases hge : 0x0A ≤ reg.toNat
  · rw [Block.register_of_ge _ hge, Block.register_of_ge _ hge]
  · obtain ⟨k, hk, rfl⟩ : ∃ k < 10, reg = BitVec.ofNat 8 k := ⟨reg.toNat, Nat.lt_of_not_le hge, by simp⟩
    rcases Nat.lt_succ_iff_lt_or_eq.mp hk with hk | rfl
    · interval_cases k <;> rfl
    · exact absurd rfl h

/-- No error condition looks at the error state. -/
theorem Fails.withErrs (h : Fails b i c) (e : Errs) : Fails (b.withErrs e) i c := by
  cases h with
  | demFeed h => exact .demFeed h
  | demFinish h => exact .demFinish h
  | modBegin h => exact .modBegin h
  | modWord h => exact .modWord h
  | modEnd h => exact .modEnd h
  | sslLoad h => exact .sslLoad h
  | sslLocate h => exact .sslLocate h
  | regRead h => exact .regRead (Block.register_of_ge _ ((b.register_eq_none_iff _).mp h))

/-- A command does the same in any error state, and responds the same unless it reads ESTAT. -/
theorem Performs.withErrs (h : Performs b i r b') (e : Errs) :
    ∃ r₂ e', Performs (b.withErrs e) i r₂ (b'.withErrs e') ∧ (i ≠ .regRead 0x09#8 → r₂ = r) := by
  cases h with
  | @fails _ c h => exact ⟨_, e.record c, .fails (h.withErrs e), fun _ => rfl⟩
  | demReset rate => exact ⟨_, e, .demReset rate, fun _ => rfl⟩
  | demFeed raw h => exact ⟨_, e, .demFeed raw h, fun _ => rfl⟩
  | demFinish h => exact ⟨_, e, .demFinish h, fun _ => rfl⟩
  | modBegin h => exact ⟨_, e, .modBegin h, fun _ => rfl⟩
  | modWord sync data h => exact ⟨_, e, .modWord sync data h, fun _ => rfl⟩
  | modEnd h => exact ⟨_, e, .modEnd h, fun _ => rfl⟩
  | sslClear => exact ⟨_, e, .sslClear, fun _ => rfl⟩
  | sslLoad data h => exact ⟨_, e, .sslLoad (b := b.withErrs e) data h, fun _ => rfl⟩
  | sslLocate la h => exact ⟨_, e, .sslLocate la h, fun _ => rfl⟩
  | @regRead reg v h =>
    by_cases hreg : reg = 0x09#8
    · subst hreg
      exact ⟨_, e, .regRead (v := e.estat) rfl, fun hne => absurd rfl hne⟩
    · exact ⟨_, e, .regRead ((b.register_withErrs e hreg).trans h), fun _ => rfl⟩

/-- The same for any command word: 0xA009 is the one that reads ESTAT. -/
theorem Answers.withErrs (h : Answers b w r b') (e : Errs) :
    ∃ r₂ e', Answers (b.withErrs e) w r₂ (b'.withErrs e') ∧ (w ≠ 0xA009#16 → r₂ = r) := by
  cases h with
  | @performs i _ _ hd h =>
    obtain ⟨r₂, e', h₂, hr⟩ := h.withErrs e
    refine ⟨r₂, e', .performs hd h₂, fun hw => hr fun hi => hw ?_⟩
    subst hi
    exact ((decode_eq_ok_iff _ _).mp hd).symm
  | illegal hd => exact ⟨_, e.record .illegal, .illegal hd, fun _ => rfl⟩

end Sys2Proof.Machine
end

section
open Sys2Proof Sys2Proof.Machine

/-- Settles O10: the rows of the table are the error conditions of the commands, code by code. -/
theorem errorTable : Obligations.ErrorTable := by
  refine ⟨fun i s => ?_, fun w => raisesIllegal_of_not_decode_ok, rfl, rfl, rfl, rfl, rfl⟩
  simp only [respondsError_iff_fails]
  exact ⟨fails_illegal_iff, fails_demNoInit_iff, fails_modSeq_iff, fails_sslFull_iff, fails_sslNotLoaded_iff⟩

/-- Settles O11: an erring command raises its error and does nothing else, and the next word's answer depends on the
error state only if it reads ESTAT. -/
theorem errorsChangeOnlyErrorState : Obligations.ErrorsChangeOnlyErrorState := by
  intro i s t c h hr
  obtain ⟨-, ht⟩ := fails_of_exec_eq h hr
  constructor
  · rw [ht, State.raise]
    rcases s.errs.record_cases c with ⟨he, hc⟩ | ⟨he, hc⟩ <;> simp [he, hc]
  · intro w
    obtain ⟨r, b', ha⟩ := exists_answers t.toBlock w
    obtain ⟨r₂, e', ha₂, hr₂⟩ := ha.withErrs s.errs
    exact ⟨_, _, ha.step_eq [] t.resps, ha₂.step_eq [] t.resps, rfl, rfl, rfl, fun hw => by rw [hr₂ hw]⟩

/-- Settles O13: a step without a word waiting is idle, and any word has an answer. -/
theorem blockNeverStops : Obligations.BlockNeverStops := by
  rintro ⟨b, cs, rs⟩
  cases cs with
  | nil => exact ⟨_, step_of_idle rfl⟩
  | cons w rest =>
    obtain ⟨r, b', h⟩ := exists_answers b w
    exact ⟨_, h.step_eq rest rs⟩
end

section
/-! SUPPORT. What one executed command keeps (70_reset_and_hazards.md R270, R271), and the transcript of a sequence of
commands, one response per command. -/

namespace Sys2Proof.Machine

open Sys2Proof

variable {b b' b₂ : Block} {i : Instr} {r : Response} {m : Memory} {u : BlockUnit}

theorem performs_of_exec_eq_next {s t : State} (h : exec i s = .next t) : ∃ r, Performs s.toBlock i r t.toBlock := by
  obtain ⟨r, b', hp⟩ := exists_performs s.toBlock i
  cases (hp.exec_eq s.cmds s.resps).symm.trans h
  exact ⟨r, hp⟩

/-- An error already recorded stays as it is (10_state.md R38, R39). -/
theorem Performs.errs_eq_of_err (h : Performs b i r b') (he : b.errs.err = true) : b'.errs = b.errs := by
  rcases h.errs_cases with ⟨c, -, hc⟩ | ⟨-, hc⟩
  · exact hc.trans (by simpa [he] using b.errs.record_cases c)
  · exact hc

/-- SSL_LOAD alone writes TBUF (42_sector_locator.md R152, R153, R156). -/
theorem Performs.tbuf_eq (h : Performs b i r b') (hi : ∀ data, i ≠ .sslLoad data) : b'.ssl.tbuf = b.ssl.tbuf := by
  cases h with
  | sslLoad data _ => exact absurd rfl (hi data)
  | _ => rfl

theorem tbuf_eq_of_exec_eq_next {s t : State} (h : exec i s = .next t) (hi : ∀ data, i ≠ .sslLoad data) :
    t.ssl.tbuf = s.ssl.tbuf := by
  obtain ⟨r, hp⟩ := performs_of_exec_eq_next h
  exact hp.tbuf_eq hi

/-- The transcript goes on from the record that the first command leaves. -/
theorem Performs.transcript_cons (h : Performs b i r b') (cs : List Word) (rs : List Response) (is : List Instr) :
    transcript ⟨b, cs, rs⟩ (i :: is) = (i, r) :: transcript ⟨b', cs, rs ++ [r]⟩ is := by
  simp [transcript, h.exec_eq cs rs]

/-- A TBUF that holds the same loaded bytes gives the same transcript: after each command it still does
(10_state.md R47). -/
theorem transcript_withTbuf (is : List Instr) (hm : b.ssl.LoadedAlike m) (cs : List Word) (rs : List Response) :
    transcript ⟨b.withTbuf m, cs, rs⟩ is = transcript ⟨b, cs, rs⟩ is := by
  induction is generalizing b m rs with
  | nil => rfl
  | cons i is ih =>
    obtain ⟨r, b', h⟩ := exists_performs b i
    obtain ⟨m', h', hm'⟩ := h.withTbuf hm
    rw [h.transcript_cons, h'.transcript_cons, ih hm']

theorem Ssl.powerOn_mask : Ssl.powerOn.mask = 0#3125 := by simp only [Ssl.powerOn]

theorem Ssl.loadedAlike_powerOn (hm : m.wf) : Ssl.powerOn.LoadedAlike m := ⟨Memory.wf_nil, hm, nofun⟩

/-- A command of another unit leaves what the two records agree on as it was. -/
theorem Performs.agreeOn_of_other_unit (h : Performs b i r b') (hu : u ≠ .reg) (hi : unitOf i ≠ u)
    (ha : b.AgreeOn u b₂) : b'.AgreeOn u b₂ := by
  obtain ⟨hdem, hmod, hssl⟩ := h.keeps_other_units
  cases u with
  | dem => exact (hdem hi).trans ha
  | mod => exact (hmod hi).trans ha
  | ssl => exact (hssl hi).trans ha
  | reg => exact absurd rfl hu

/-- Two runs from records that agree on a unit, the second with that unit's commands alone: the other units' commands
keep the agreement, and the unit's own commands respond alike and keep it. -/
theorem filter_transcript_of_agreeOn (is : List Instr) (hu : u ≠ .reg) (ha : b.AgreeOn u b₂) (cs : List Word)
    (rs rs₂ : List Response) :
    (transcript ⟨b, cs, rs⟩ is).filter (fun e => unitOf e.1 = u) =
      transcript ⟨b₂, cs, rs₂⟩ (is.filter (fun i => unitOf i = u)) := by
  induction is generalizing b b₂ rs rs₂ with
  | nil => rfl
  | cons i is ih =>
    obtain ⟨r, b', h⟩ := exists_performs b i
    rw [h.transcript_cons]
    by_cases hi : unitOf i = u
    · subst hi
      obtain ⟨b₂', h₂, ha'⟩ := h.of_agreeOn hu ha
      rw [List.filter_cons_of_pos (by simp), List.filter_cons_of_pos (by simp), h₂.transcript_cons, ih ha']
    · rw [List.filter_cons_of_neg (by simp [hi]), List.filter_cons_of_neg (by simp [hi])]
      exact ih (h.agreeOn_of_other_unit hu hi ha) _ _

theorem Block.AgreeOn.refl (u : BlockUnit) (b : Block) : b.AgreeOn u b := by
  cases u with
  | reg => exact ⟨rfl, rfl, rfl, rfl⟩
  | _ => rfl

end Sys2Proof.Machine
end

section
open Sys2Proof Sys2Proof.Machine

/-- Settles O48: only SSL_LOAD writes TBUF, and at power-on none of it is loaded. -/
theorem powerOnTbufIsUnobservable : Obligations.PowerOnTbufIsUnobservable :=
  ⟨fun _ _ _ h => tbuf_eq_of_exec_eq_next h nofun, fun _ _ h => tbuf_eq_of_exec_eq_next h nofun,
    fun _ _ h => tbuf_eq_of_exec_eq_next h nofun,
    fun _ is hm => transcript_withTbuf (b := .powerOn) is (Ssl.loadedAlike_powerOn hm) [] []⟩

/-- Settles O51: the whole run and the unit's own run start from one record, which agrees with itself. -/
theorem unitsInterleaveFreely : Obligations.UnitsInterleaveFreely :=
  fun u s is hu => filter_transcript_of_agreeOn is hu (.refl u s.toBlock) s.cmds s.resps s.resps

/-- Settles O14: the values are those of the record, and a recorded error stays. -/
theorem powerOnValues : Obligations.PowerOnValues := by
  refine ⟨rfl, rfl, rfl, rfl, rfl, rfl, rfl, rfl, rfl, rfl, Ssl.powerOn_mask, rfl, rfl, rfl, rfl, rfl, rfl, rfl,
    fun i s t h he => ?_⟩
  obtain ⟨r, hp⟩ := performs_of_exec_eq_next h
  exact hp.errs_eq_of_err he
end
